-- ==== Sys2Proof/Word.lean ====
section
/-! DEFINITION. The word types of the RA-4816 model: the byte of the trunks, of the control line and
of the delay tables, and the 16-bit running check of a control-line frame. Everything else the manual
counts or calculates is an exact integer (spec/00_scope.md, Conventions, "Arithmetic"), so it is a
`Nat` or an `Int` here. -/

namespace Sys2Proof

/-- One byte: a trunk frame byte, a control-line byte or a stored delay. -/
abbrev Byte := BitVec 8

/-- The 16-bit running check of a control-line frame (R173). -/
abbrev Check := BitVec 16

end Sys2Proof
end

