-- ==== Sys2Proof/Syntax.lean ====
section
/-! DEFINITION. The commands of the RA-4816: one constructor for each row of spec/opcode_table.json, in
the table's order where a request or an event has operands with the operands the spec gives it.

A request row carries the tag and the raw body of the request frame (R176, R190), so that every body,
of a length the kind allows or not, is a form of the row. A trunk row carries the trunk's number, a
region row the region's number, PAUSE its trunk and whether the pause has ended, RX_BYTE the eight data bits
and the level of the stop bit, and POWER_ON_RESET the two rate straps. -/

namespace Sys2Proof

/-- A pause of FV (R6): the trunk, and whether FV has risen again, with no edge of BCK since. -/
structure Pause where
  trunk : Fin 6
  ended : Bool
deriving DecidableEq, Repr

/-- A command sent to the block: an event at its pins, an event of its own clocks, or a request. -/
inductive Instr where
  /-- POWER_ON_RESET (R166): power is applied with the straps RATE1 and RATE0 at these levels. -/
  | powerOnReset (rate1 rate0 : Bool)
  /-- SAMPLE_EPOCH (R42): the second position reaches the count of the next sample index. -/
  | sampleEpoch
  /-- TICK_COMPLETION (R23): the tick whose last epoch has just been handed over completes. -/
  | tickCompletion
  /-- PRIMING_END (R161): the priming countdown has just reached 0. -/
  | primingEnd
  /-- TRUNK_BYTE (R5): eight bits of one byte arrive on a trunk, most significant first. -/
  | trunkByte (trunk : Fin 6) (byte : Byte)
  /-- PAUSE (R6): FV of a trunk falls between bytes and, where the pause has ended, rises again. On a trunk
  whose FV is low already, an ended pause is the rise alone. -/
  | pause (p : Pause)
  /-- BREAK_WITHIN_BYTE (R7): FV of a trunk falls inside a byte. -/
  | breakWithinByte (trunk : Fin 6)
  /-- PPS_EDGE (R46): a rising edge of PPS is recognised in the present reference cycle. -/
  | ppsEdge
  /-- ACQUIRING_TIMEOUT (R49). -/
  | acquiringTimeout
  /-- FREE_RUN_ROLLOVER (R43). -/
  | freeRunRollover
  /-- HOLDOVER_ENTRY (R53). -/
  | holdoverEntry
  /-- HOLDOVER_EXPIRY (R54). -/
  | holdoverExpiry
  /-- PASS_START (R87). -/
  | passStart
  /-- PASS_END (R97). -/
  | passEnd
  /-- DEAD_COUNT_END (R123): the dead count of this region reaches 0. -/
  | deadCountEnd (region : Fin 16)
  /-- READ_GRANT (R69): the end of the waiting read's grant. -/
  | readGrant
  /-- COPY_SLICE (R74): the end of a copy slice. -/
  | copySlice
  /-- EXCERPT_TAKE (R138). -/
  | excerptTake
  /-- RX_BYTE (R169): a byte is recognised on RXD, its stop bit sampled high or low. -/
  | rxByte (byte : Byte) (stopHigh : Bool)
  /-- GAP_TIMEOUT (R172). -/
  | gapTimeout
  /-- REPLY_SENT (R177): the last stop bit of the reply at the head of the transmit queue is sent. -/
  | replySent
  /-- STATUS, kind 01h (R180). -/
  | status (tag : Byte) (body : List Byte)
  /-- RESET, kind 02h (R181). -/
  | reset (tag : Byte) (body : List Byte)
  /-- SET ACQUISITION, kind 10h (R37). -/
  | setAcquisition (tag : Byte) (body : List Byte)
  /-- SET CHANNEL, kind 11h (R18). -/
  | setChannel (tag : Byte) (body : List Byte)
  /-- CHANNEL REPORT, kind 12h (R20). -/
  | channelReport (tag : Byte) (body : List Byte)
  /-- SET REGION, kind 13h (R113). -/
  | setRegion (tag : Byte) (body : List Byte)
  /-- SET TIME, kind 14h (R56). -/
  | setTime (tag : Byte) (body : List Byte)
  /-- TABLE POINTER, kind 20h (R65). -/
  | tablePointer (tag : Byte) (body : List Byte)
  /-- TABLE WRITE, kind 21h (R66). -/
  | tableWrite (tag : Byte) (body : List Byte)
  /-- TABLE READ, kind 22h (R68). -/
  | tableRead (tag : Byte) (body : List Byte)
  /-- BANK SIZE, kind 23h (R70). -/
  | bankSize (tag : Byte) (body : List Byte)
  /-- REGION MAP, kind 24h (R71). -/
  | regionMap (tag : Byte) (body : List Byte)
  /-- BANK COPY, kind 25h (R73). -/
  | bankCopy (tag : Byte) (body : List Byte)
  /-- BANK ACTIVATE, kind 26h (R75). -/
  | bankActivate (tag : Byte) (body : List Byte)
  /-- SET MONITOR, kind 30h (R101). -/
  | setMonitor (tag : Byte) (body : List Byte)
  /-- SET EXCERPT, kind 31h (R152). -/
  | setExcerpt (tag : Byte) (body : List Byte)
  /-- SET ATTENTION, kind 32h (R187). -/
  | setAttention (tag : Byte) (body : List Byte)
  /-- START, kind 40h (R159). -/
  | start (tag : Byte) (body : List Byte)
  /-- STOP, kind 41h (R162). -/
  | stop (tag : Byte) (body : List Byte)
  /-- FETCH SUMMARY, kind 50h (R184). -/
  | fetchSummary (tag : Byte) (body : List Byte)
  /-- FETCH EXCERPT, kind 51h (R186). -/
  | fetchExcerpt (tag : Byte) (body : List Byte)
  /-- UNKNOWN_KIND (R179): a frame of a kind 00h–7Fh that names no request. -/
  | unknownKind (kind tag : Byte) (body : List Byte)
  /-- TRUNK_BIT (R2): a rising edge of BCK with FV high and this level of DIN. -/
  | trunkBit (trunk : Fin 6) (bit : Bool)
  /-- MOVE_TO_WAITING (R3): a rising edge of BCK on which FV is sampled low. -/
  | moveToWaiting (trunk : Fin 6)
deriving DecidableEq, Repr

end Sys2Proof
end

