-- ==== Sys2Proof/Decode.lean ====
section
/-! DEFINITION. The words of the command table. No row of spec/opcode_table.json gives bits ("fields" is
empty in every row and no row has "fixed"), so no word spells a command. The bytes that the block
itself receives, trunk frames (R2–R5) and control-line frames (R170–R174), are taken apart by the
meanings of TRUNK_BYTE and RX_BYTE. -/

namespace Sys2Proof

/-- The command a word of the table spells: none, for every word. -/
def decodeTableWord (_nbits _w : Nat) : Option Instr := none

end Sys2Proof
end

