-- ==== Sys2Proof/Config.lean ====
section
/-! DEFINITION. The fixed quantities the manual states, under the manual's names; the two choices that the
state after power is applied needs (the rate straps, the level of FV), named here and logged; and the one
free value, the bit of a reply that the transmitter has reached. -/

namespace Sys2Proof.Config

/-- The nominal second in reference cycles (03_timebase.md, "State held by the timebase"). -/
abbrev nominalSecond : Nat := 16384000

/-- W, the PPS acceptance half-window in reference cycles (R46). -/
abbrev halfWindow : Nat := 1638

/-- The lower end of the ACQUIRING window and of the limit on C_ref (R46, R51). -/
abbrev windowLow : Nat := 16382362

/-- The upper end of the ACQUIRING window and of the limit on C_ref (R46, R49, R51). -/
abbrev windowHigh : Nat := 16385638

/-- The length of an SMP pulse in reference cycles (01_..., "Trunk signals"). -/
abbrev smpCycles : Nat := 16

/-- The gap limit of 10 ms in reference cycles of 1/16.384 MHz (R172). -/
abbrev gapLimit : Nat := 163840

/-- The largest value of a 32-bit saturating counter. -/
abbrev max32 : Nat := 4294967295

/-- The largest value of a 16-bit saturating counter. -/
abbrev max16 : Nat := 65535

/-- Entries of a channel's raw ring (R13). -/
abbrev rawRingLength : Nat := 4096

/-- Entries of a CF ring and of the label ring (R25, R32). -/
abbrev tickRingLength : Nat := 256

/-- The origin lag in ticks (R34). -/
abbrev originLag : Nat := 240

/-- Node records of a bank (R63). -/
abbrev bankNodes : Nat := 4096

/-- The largest value of a calibrated sample (R11). -/
abbrev sampleMax : Int := 8388607

/-- The smallest value of a calibrated sample (R11). -/
abbrev sampleMin : Int := -8388608

/-- Bytes the excerpt queue can hold (R185). -/
abbrev excerptBytes : Nat := 65536

/-- Records the summary queue can hold (R183). -/
abbrev summaryPlaces : Nat := 64

/-- The largest fill at which the summary queue still admits a MONITOR record (R183). -/
abbrev monitorFill : Nat := 56

/-- The largest body of a control-line frame (R171). -/
abbrev maxBody : Nat := 1152

/-- The level of FV0–FV5 when power is applied: low, as the internal pull-downs of an unconnected
trunk hold it (01_..., "Trunk signals"). DEDUCED, notes/assumptions/2.md. -/
abbrev fvAtPowerOn : Bool := false

/-- The level of both rate straps in `State.reset`: low, as the weak internal pull-downs read an
unconnected strap (09_..., "Pins and line rate"). DESIGN CHOICE, notes/assumptions/3.md. -/
abbrev strapAtReset : Bool := false

/-- Free value: how many bits of the reply being sent have gone out, at this nominal rate in baud and after this
many reference cycles. The manual gives the bit rate only within 0.5 per cent (09_..., "Pins and line rate");
`ControlPort.bitPlace` keeps the value within that bound. notes/assumptions/10.md. -/
opaque bitsOut (baud cycles : Nat) : Nat

end Sys2Proof.Config
end

