-- ==== Sys2Proof/Machine/State.lean ====
section
/-! DEFINITION. The state of the RA-4816 as plain data, block by block as spec/00_scope.md lists the
blocks, and the state after power-on reset. -/

namespace Sys2Proof.Machine

/-- Addressed storage: (address, content) pairs, addresses strictly rising, none listed that holds what
an unlisted address reads as (`Memory.wf` in Machine/Ops.lean). With bytes it is a list of `Host.Cell`. -/
abbrev Memory (α : Type) := List (Nat × α)

/-! ### The timebase (03_timebase.md) -/

/-- The timebase state, which is also the quality of a label (R58). -/
inductive TimebaseState where
  | free | acquiring | locked | holdover
deriving DecidableEq, Repr

/-- A label: seconds, sample index, quality and step flag (R58). -/
structure Label where
  seconds : Nat
  index : Nat
  quality : TimebaseState
  step : Bool
deriving DecidableEq, Repr

/-- The label that cleared label storage holds (R26, R61). -/
def Label.cleared : Label := { seconds := 0, index := 0, quality := .free, step := false }

/-- "State held by the timebase". -/
structure Timebase where
  /-- reference counter (R41) -/
  counter : Nat
  state : TimebaseState
  /-- C_ref, the measured length of a second -/
  cRef : Nat
  lockStreak : Nat
  missed : Nat
  holdoverLimit : Nat
  seconds : Nat
  /-- pending seconds, or none -/
  pendingSeconds : Option Nat
  /-- sample rate code of the Fs setting; Fs is 500 × 2^code (R37) -/
  fsSetting : Fin 4
  /-- sample rate code of the Fs in force -/
  fsInForce : Fin 4
  cInUse : Nat
  q : Nat
  r : Nat
  /-- second position -/
  position : Nat
  sampleIndex : Nat
  /-- label in progress: the label of the epoch in progress -/
  label : Label
  /-- reference cycles for which the SMP output stays high -/
  smpLeft : Nat
  ppsEdges : Nat
  rejects : Nat
  outliers : Nat
  locks : Nat
  holdovers : Nat
deriving DecidableEq, Repr

/-! ### Trunk receivers (01_signal_trunks_and_channel_conditioning.md) -/

/-- Receiver state of a trunk. -/
inductive TrunkState where
  | arming | waiting | assembling | complete | rejected
deriving DecidableEq, Repr

/-- One trunk receiver, with the level last seen on its FV input. -/
structure Trunk where
  /-- FV pin -/
  fv : Bool
  state : TrunkState
  byteCount : Nat
  bitCount : Nat
  /-- the bits taken so far of the byte in progress, as a number -/
  byteInProgress : Byte
  /-- the status byte and the sample bytes taken so far -/
  frame : List Byte
  faults : Nat
  breaks : Nat
deriving DecidableEq, Repr

/-! ### The channel conditioner (01_… and 02_the_characteristic_function.md) -/

/-- The channel record (R18). -/
structure ChannelRecord where
  enabled : Bool
  member : Bool
  gain : Nat
  weight : Nat
  trigger : Nat
  freeze : Nat
  noise : Nat
  staleLimit : Nat
  recovery : Nat
deriving DecidableEq, Repr

/-- Channel state (R15). -/
inductive ChannelState where
  | disabled | live | stale | recovering
deriving DecidableEq, Repr

/-- An entry of a raw ring. -/
structure RawEntry where
  value : Int
  held : Bool
  clip : Bool
deriving DecidableEq, Repr

/-- What a cleared raw ring entry holds (R14). -/
def RawEntry.cleared : RawEntry := { value := 0, held := true, clip := false }

/-- An entry of a CF ring. -/
structure CfEntry where
  value : Nat
  valid : Bool
deriving DecidableEq, Repr

/-- What a cleared CF ring entry holds (R35). -/
def CfEntry.cleared : CfEntry := { value := 0, valid := false }

/-- One channel: its record, its state, its health counts, its rings and its running sums. -/
structure Channel where
  record : ChannelRecord
  state : ChannelState
  heldRun : Nat
  goodRun : Nat
  /-- last calibrated sample -/
  last : Int
  heldCount : Nat
  clipCount : Nat
  saturationCount : Nat
  staleCount : Nat
  /-- raw ring, epoch E at index E mod 4096 -/
  rawRing : Memory RawEntry
  envelopeSum : Nat
  heldInTick : Bool
  liveThroughout : Bool
  sta : Nat
  lta : Nat
  /-- CF ring, tick t at index t mod 256 -/
  cfRing : Memory CfEntry
deriving DecidableEq, Repr

/-- What is still to be done of the epoch event that has just handed over a tick's last epoch: the
model's own field, notes/assumptions/5.md. -/
inductive EpochStage where
  /-- nothing -/
  | none
  /-- the completion of the tick (R23) -/
  | completion
  /-- the end of priming and the append (R161) -/
  | primingEnd
deriving DecidableEq, Repr

/-- The channel conditioner. -/
structure Conditioner where
  channels : Vector Channel 48
  /-- number of the epoch in progress, or none: an epoch without a number (R160) -/
  openEpoch : Option Nat
  newestEpoch : Option Nat
  tickCount : Nat
  /-- label in progress of the tick (R25) -/
  tickLabel : Label
  /-- label ring, tick t at index t mod 256 -/
  labelRing : Memory Label
  staShift : Nat
  ltaShift : Nat
  /-- decimation code; D is 2^code (R37) -/
  decimation : Fin 4
  stage : EpochStage
deriving DecidableEq, Repr

/-! ### The travel-time store (04_travel_time_banks.md) -/

/-- Bank letter. -/
inductive BankId where
  | a | b
deriving DecidableEq, Repr

/-- One bank: 4096 node records and a node count. The delay of node n and channel k stands at address
48 n + k, the region of node n at address n. -/
structure Bank where
  delays : Memory Byte
  regions : Memory (Fin 16)
  count : Nat
deriving DecidableEq, Repr

/-- Walking mode of the write pointer. -/
inductive PointerMode where
  | wrap | advance
deriving DecidableEq, Repr

/-- The write pointer. -/
structure Pointer where
  node : Nat
  channel : Nat
  mode : PointerMode
deriving DecidableEq, Repr

/-- A copy job (R73). -/
structure CopyJob where
  toCopy : Nat
  copied : Nat
deriving DecidableEq, Repr

/-- What a TABLE READ asks for (R68). -/
structure ReadRequest where
  bank : BankId
  node : Nat
  channel : Nat
  count : Nat
deriving DecidableEq, Repr

/-- The grant a round is in: the two that take engine cycles (R78). -/
inductive Grant where
  | read | slice
deriving DecidableEq, Repr

/-- The round in progress: its present grant and the engine cycles the grant still lasts. -/
structure Round where
  grant : Grant
  cyclesLeft : Nat
deriving DecidableEq, Repr

/-- The travel-time store. -/
structure TableStore where
  bankA : Bank
  bankB : Bank
  active : BankId
  pointer : Pointer
  swapPending : Bool
  copy : Option CopyJob
  waitingRead : Option ReadRequest
  round : Option Round
deriving DecidableEq, Repr

/-! ### The stacking engine (05_the_stacking_pass.md) -/

/-- What a pass fixes of a channel (R89). -/
structure PassChannel where
  member : Bool
  inService : Bool
  weight : Nat
  trigger : Nat
deriving DecidableEq, Repr

/-- What a pass fixes of a region (R89). -/
structure PassRegion where
  mayFire : Bool
  declareLevel : Nat
  coincidence : Nat
  minWeight : Nat
deriving DecidableEq, Repr

/-- The pass context. The next node is the node of the present engine cycle (R90), and each region's
best so far is a function of the context and the tables (R89): both are derived, in Machine/Engine.lean. -/
structure PassContext where
  origin : Nat
  skippedBefore : Nat
  bank : BankId
  nodeCount : Nat
  channels : Vector PassChannel 48
  regions : Vector PassRegion 16
  /-- tap latch: enable and node -/
  tapEnabled : Bool
  tapNode : Nat
  /-- marked as changed for the tap (R101) -/
  tapChanged : Bool
  /-- engine cycles since the pass started -/
  cycles : Nat
deriving DecidableEq, Repr

/-- One value of a monitor block (R102). -/
structure TapValue where
  m : Nat
  valid : Bool
  fired : Bool
deriving DecidableEq, Repr

/-- The monitor block being filled. -/
structure MonitorBlock where
  values : List TapValue
  gap : Bool
  bank : BankId
  firstOrigin : Nat
  firstLabel : Label
deriving DecidableEq, Repr

/-- A block started afresh: no value, gap flag clear (R102, R107). The manual says no more than empty: bank A,
origin 0 and the cleared label are a DESIGN CHOICE (notes/assumptions/36.md). -/
def MonitorBlock.empty : MonitorBlock :=
  { values := [], gap := false, bank := .a, firstOrigin := 0, firstLabel := .cleared }

/-- The stacking engine. It is RUNNING while `pass` is present and IDLE otherwise. -/
structure Engine where
  /-- origin queue, head first -/
  origins : List Nat
  pass : Option PassContext
  skippedSince : Nat
  skippedTotal : Nat
  passCount : Nat
  tapEnabled : Bool
  tapNode : Nat
  tapSkip : Nat
  countdown : Nat
  block : MonitorBlock
  lostBlocks : Nat
deriving DecidableEq, Repr

/-! ### The event builder (06_event_building_and_declaration.md) -/

/-- The region record (R113). -/
structure RegionRecord where
  enabled : Bool
  declareLevel : Nat
  coincidence : Nat
  minWeight : Nat
  release : Nat
  maxSpan : Nat
  deadTime : Nat
deriving DecidableEq, Repr

/-- The candidate record (R117). -/
structure Candidate where
  openOrigin : Nat
  peakOrigin : Nat
  peakNode : Nat
  peakM : Nat
  peakC : Nat
  peakWsum : Nat
  peakDelays : Vector Byte 48
  peakLabel : Label
  span : Nat
  firings : Nat
  quiet : Nat
  gap : Bool
  step : Bool
  bank : BankId
deriving DecidableEq, Repr

/-- A region's slot: IDLE, OPEN with its candidate, or DEAD with its dead count (R117). -/
inductive Slot where
  | idle
  | opened (c : Candidate)
  | dead (count : Nat)
deriving DecidableEq, Repr

/-- One region: its record, its enabled in force and its slot. -/
structure Region where
  record : RegionRecord
  inForce : Bool
  slot : Slot
deriving DecidableEq, Repr

/-- The event builder. -/
structure Builder where
  regions : Vector Region 16
  eventCounter : Nat
  lostBefore : Nat
  lostTotal : Nat
deriving DecidableEq, Repr

/-- Close reason (R124–R126). -/
inductive CloseReason where
  | quiet | long | table | stopped
deriving DecidableEq, Repr

/-- Excerpt status of an EVENT summary (R130). -/
inductive ExcerptStatus where
  | queued | off | notTakenBusy | notTakenStopped
deriving DecidableEq, Repr

/-! ### The excerpt unit (07_waveform_excerpts_and_rate_control.md) -/

/-- Excerpt mode. -/
inductive ExcerptMode where
  | off | full | trim | coarsen
deriving DecidableEq, Repr

/-- An entry of a job's channel list (R131). -/
structure JobChannel where
  channel : Fin 48
  delay : Nat
  arrival : Nat
deriving DecidableEq, Repr

/-- An extraction job (R131), with its forced mark (R140). -/
structure Job where
  event : Nat
  origin : Nat
  label : Label
  decimation : Nat
  pre : Nat
  post : Nat
  channels : List JobChannel
  forced : Bool
deriving DecidableEq, Repr

/-- The excerpt unit. -/
structure ExcerptUnit where
  /-- extraction queue, head first -/
  jobs : List Job
  pre : Nat
  post : Nat
  mode : ExcerptMode
  allowanceSetting : Nat
  allowanceInForce : Nat
  allowanceLeft : Nat
  excerptCount : Nat
  trimmedCount : Nat
  coarsenedCount : Nat
  discardedCount : Nat
deriving DecidableEq, Repr

/-! ### Report queues (10_report_queues_and_record_layouts.md) -/

/-- An EVENT summary (R129). -/
structure EventSummary where
  event : Nat
  region : Fin 16
  reason : CloseReason
  closeOrigin : Nat
  candidate : Candidate
  lostBefore : Nat
  status : ExcerptStatus
deriving DecidableEq, Repr

/-- A MONITOR record (R104). -/
structure MonitorRecord where
  node : Nat
  skip : Nat
  lastOrigin : Nat
  block : MonitorBlock
  lostBlocks : Nat
deriving DecidableEq, Repr

/-- A record of the summary queue. -/
inductive Summary where
  | event (e : EventSummary)
  | monitor (m : MonitorRecord)
deriving DecidableEq, Repr

/-- A whole excerpt as its bytes, with what FETCH EXCERPT repeats of it (R186). -/
structure Excerpt where
  event : Nat
  origin : Nat
  label : Label
  bytes : List Byte
deriving DecidableEq, Repr

/-- The report queues. -/
structure Reports where
  /-- summary queue, head first -/
  summaries : List Summary
  /-- excerpt queue, head first -/
  excerpts : List Excerpt
  headOffset : Nat
  threshold : Nat
  /-- the ATTN output -/
  attn : Bool
deriving DecidableEq, Repr

/-! ### The control port (09_the_control_line.md) -/

/-- Line rate, from the straps RATE1 and RATE0 (R168). -/
inductive LineRate where
  | baud115200 | baud460800 | baud921600 | baud3000000
deriving DecidableEq, Repr

/-- The frame in progress (R170, R171). -/
structure FrameInProgress where
  /-- frame position: bytes taken so far, the marker counted as 1 -/
  position : Nat
  kind : Byte
  tag : Byte
  length : Nat
  body : List Byte
  /-- running check -/
  check : Check
  /-- the received check's first byte, once position reaches it -/
  checkLow : Byte
  /-- gap timer in reference cycles; it runs inside a frame only (R172) -/
  gap : Nat
deriving DecidableEq, Repr

/-- Receiver state of the control port. -/
inductive Receiver where
  | hunting
  | inFrame (f : FrameInProgress)
deriving DecidableEq, Repr

/-- The 21 requests of the table in R179. -/
inductive Request where
  | status | reset | setAcquisition | setChannel | channelReport | setRegion | setTime
  | tablePointer | tableWrite | tableRead | bankSize | regionMap | bankCopy | bankActivate
  | setMonitor | setExcerpt | setAttention | start | stop | fetchSummary | fetchExcerpt
deriving DecidableEq, Repr

/-- A valid frame in the backlog (R174). -/
structure Frame where
  kind : Byte
  tag : Byte
  body : List Byte
deriving DecidableEq, Repr

/-- A reply of the transmit queue (R176). -/
structure Reply where
  kind : Byte
  tag : Byte
  body : List Byte
deriving DecidableEq, Repr

/-- The executing request where it could not end in the event that began it (R175). -/
inductive Executing where
  /-- a TABLE READ with this tag waits for its grant -/
  | tableRead (tag : Byte)
  /-- a reply waits for a place in the transmit queue -/
  | replyWaiting (r : Reply)
deriving DecidableEq, Repr

/-- The nine link counters (R178). -/
structure LinkCounters where
  huntDiscards : Nat
  lineErrors : Nat
  lengthDrops : Nat
  gapDrops : Nat
  checkDrops : Nat
  kindDrops : Nat
  validFrames : Nat
  busys : Nat
  overflowDrops : Nat
deriving DecidableEq, Repr

/-- All link counters 0. -/
def LinkCounters.zero : LinkCounters :=
  { huntDiscards := 0, lineErrors := 0, lengthDrops := 0, gapDrops := 0, checkDrops := 0,
    kindDrops := 0, validFrames := 0, busys := 0, overflowDrops := 0 }

/-- The control port. -/
structure ControlPort where
  lineRate : LineRate
  receiver : Receiver
  executing : Option Executing
  /-- the waiting frames of the backlog, oldest first -/
  waiting : List Frame
  /-- transmit queue, head first; the transmitter sends the head -/
  transmit : List Reply
  /-- reference cycles since the transmitter began the head reply, 0 while none is being sent -/
  sentFor : Nat
  resetPending : Bool
  counters : LinkCounters
deriving DecidableEq, Repr

/-! ### The mode controller (08_operating_modes_and_start_up.md) -/

/-- Mode of the part. -/
inductive Mode where
  | standby | priming | listening
deriving DecidableEq, Repr

/-- The mode controller. -/
structure ModeController where
  mode : Mode
  /-- priming countdown -/
  countdown : Nat
deriving DecidableEq, Repr

/-! ### The whole part -/

/-- The state of the RA-4816: the queue of commands waiting, first in, first out, and the ten blocks. -/
structure State where
  pending : List Instr
  trx : Vector Trunk 6
  ccu : Conditioner
  tbu : Timebase
  tts : TableStore
  stk : Engine
  evb : Builder
  exu : ExcerptUnit
  rpq : Reports
  cpt : ControlPort
  mdc : ModeController
deriving DecidableEq, Repr

/-- Reasons for a fault: there are none. No rule of the manual stops the part; every request that is
wrong is answered with a status (R175) and every event out of place has a rule. -/
inductive Fault where
deriving DecidableEq, Repr

/-- Reasons for a refusal. -/
inductive Refusal where
  /-- Raised by an arm of `exec` whose command has no meaning yet (safe). No arm of this model raises it. -/
  | notModelled (mnemonic : String)
deriving DecidableEq, Repr

/-- What a command answers. -/
abbrev Result := Host.Outcome State Fault Refusal

/-! ### The values after power-on reset -/

/-- A trunk receiver after power-on reset: ARMING, everything else 0 or empty (R3, R10). -/
def Trunk.powerOn : Trunk :=
  { fv := Config.fvAtPowerOn, state := .arming, byteCount := 0, bitCount := 0, byteInProgress := 0,
    frame := [], faults := 0, breaks := 0 }

/-- A channel record after power-on reset (R19). -/
def ChannelRecord.powerOn : ChannelRecord :=
  { enabled := false, member := false, gain := 0, weight := 1, trigger := 48, freeze := 64, noise := 16,
    staleLimit := 8, recovery := 64 }

/-- A channel after power-on reset (R12, R14, R17, R19, R35). -/
def Channel.powerOn : Channel :=
  { record := .powerOn, state := .disabled, heldRun := 0, goodRun := 0, last := 0, heldCount := 0,
    clipCount := 0, saturationCount := 0, staleCount := 0, rawRing := [], envelopeSum := 0,
    heldInTick := false, liveThroughout := true, sta := 0, lta := 0, cfRing := [] }

/-- The conditioner after power-on reset (R14, R26, R38). -/
def Conditioner.powerOn : Conditioner :=
  { channels := Vector.replicate 48 .powerOn, openEpoch := none, newestEpoch := none, tickCount := 0,
    tickLabel := .cleared, labelRing := [], staShift := 3, ltaShift := 9, decimation := 2, stage := .none }

/-- The timebase after power-on reset, its first second begun and index 0 issued (R61): C in use is the
nominal second, Fs is 2000, so q is 8192 and r is 0. -/
def Timebase.powerOn : Timebase :=
  { counter := 0, state := .free, cRef := Config.nominalSecond, lockStreak := 0, missed := 0,
    holdoverLimit := 600, seconds := 0, pendingSeconds := none, fsSetting := 2, fsInForce := 2,
    cInUse := Config.nominalSecond, q := 8192, r := 0, position := 0, sampleIndex := 0,
    label := .cleared, smpLeft := Config.smpCycles, ppsEdges := 0, rejects := 0, outliers := 0,
    locks := 0, holdovers := 0 }

/-- A bank after power-on reset: every delay 255, every region 0, node count 0 (R84). -/
def Bank.powerOn : Bank := { delays := [], regions := [], count := 0 }

/-- The write pointer after either reset (R83, R84). -/
def Pointer.start : Pointer := { node := 0, channel := 0, mode := .advance }

/-- The travel-time store after power-on reset (R84). -/
def TableStore.powerOn : TableStore :=
  { bankA := .powerOn, bankB := .powerOn, active := .a, pointer := .start, swapPending := false,
    copy := none, waitingRead := none, round := none }

/-- The stacking engine after power-on reset (R107, R111). -/
def Engine.powerOn : Engine :=
  { origins := [], pass := none, skippedSince := 0, skippedTotal := 0, passCount := 0,
    tapEnabled := false, tapNode := 0, tapSkip := 0, countdown := 0, block := .empty, lostBlocks := 0 }

/-- A region record after power-on reset (R116). -/
def RegionRecord.powerOn : RegionRecord :=
  { enabled := false, declareLevel := 40, coincidence := 4, minWeight := 4, release := 25,
    maxSpan := 500, deadTime := 50 }

/-- A region after power-on reset (R116). -/
def Region.powerOn : Region := { record := .powerOn, inForce := false, slot := .idle }

/-- The event builder after power-on reset (R116, R133). -/
def Builder.powerOn : Builder :=
  { regions := Vector.replicate 16 .powerOn, eventCounter := 1, lostBefore := 0, lostTotal := 0 }

/-- The excerpt unit after power-on reset (R155). -/
def ExcerptUnit.powerOn : ExcerptUnit :=
  { jobs := [], pre := 400, post := 1600, mode := .trim, allowanceSetting := 32768,
    allowanceInForce := 32768, allowanceLeft := 32768, excerptCount := 0, trimmedCount := 0,
    coarsenedCount := 0, discardedCount := 0 }

/-- The report queues after power-on reset (R188). -/
def Reports.powerOn : Reports :=
  { summaries := [], excerpts := [], headOffset := 0, threshold := 1, attn := false }

/-- The line rate that the straps RATE1 and RATE0 select (R168). -/
def LineRate.ofStraps (rate1 rate0 : Bool) : LineRate :=
  match rate1, rate0 with
  | false, false => .baud115200
  | false, true => .baud460800
  | true, false => .baud921600
  | true, true => .baud3000000

/-- The control port after power-on reset with these straps (R168, R182). -/
def ControlPort.powerOn (rate1 rate0 : Bool) : ControlPort :=
  { lineRate := .ofStraps rate1 rate0, receiver := .hunting, executing := none, waiting := [],
    transmit := [], sentFor := 0, resetPending := false, counters := .zero }

/-- The mode controller after power-on reset (R157). -/
def ModeController.powerOn : ModeController := { mode := .standby, countdown := 0 }

/-- The part after power-on reset with these straps, no command waiting (R166). -/
def State.powerOn (rate1 rate0 : Bool) : State :=
  { pending := [], trx := Vector.replicate 6 .powerOn, ccu := .powerOn, tbu := .powerOn,
    tts := .powerOn, stk := .powerOn, evb := .powerOn, exu := .powerOn, rpq := .powerOn,
    cpt := .powerOn rate1 rate0, mdc := .powerOn }

/-- The machine right after power-on reset, both rate straps low (notes/assumptions/3.md). -/
def State.reset : State := State.powerOn Config.strapAtReset Config.strapAtReset

/-! ### One update per block -/

/-- The queue of waiting commands replaced. -/
def State.withPending (s : State) (x : List Instr) : State := { s with pending := x }
/-- The trunk receivers replaced. -/
def State.withTrx (s : State) (x : Vector Trunk 6) : State := { s with trx := x }
/-- The conditioner replaced. -/
def State.withCcu (s : State) (x : Conditioner) : State := { s with ccu := x }
/-- The timebase replaced. -/
def State.withTbu (s : State) (x : Timebase) : State := { s with tbu := x }
/-- The travel-time store replaced. -/
def State.withTts (s : State) (x : TableStore) : State := { s with tts := x }
/-- The stacking engine replaced. -/
def State.withStk (s : State) (x : Engine) : State := { s with stk := x }
/-- The event builder replaced. -/
def State.withEvb (s : State) (x : Builder) : State := { s with evb := x }
/-- The excerpt unit replaced. -/
def State.withExu (s : State) (x : ExcerptUnit) : State := { s with exu := x }
/-- The report queues replaced. -/
def State.withRpq (s : State) (x : Reports) : State := { s with rpq := x }
/-- The control port replaced. -/
def State.withCpt (s : State) (x : ControlPort) : State := { s with cpt := x }
/-- The mode controller replaced. -/
def State.withMdc (s : State) (x : ModeController) : State := { s with mdc := x }

end Sys2Proof.Machine
end

