-- ==== Sys2Proof/Machine/Ops.lean ====
section
/-! DEFINITION. The operations every block shares: addressed storage in canonical form, saturating
counters, clamps, the second schedule and the passing of time. -/

namespace Sys2Proof.Machine

/-! ### Addressed storage -/

/-- The canonical form of a storage whose unlisted addresses read as `d`. -/
abbrev Memory.wf {α : Type} (d : α) (m : Memory α) : Prop :=
  m.Pairwise (fun x y => x.1 < y.1) ∧ ∀ c ∈ m, c.2 ≠ d

/-- What address `a` reads as. -/
def Memory.read {α : Type} (d : α) : Memory α → Nat → α
  | [], _ => d
  | (k, v) :: m, a => if k = a then v else Memory.read d m a

/-- Address `a` made to read as `v`, the canonical form kept. -/
def Memory.write {α : Type} [DecidableEq α] (d : α) : Memory α → Nat → α → Memory α
  | [], a, v => if v = d then [] else [(a, v)]
  | (k, w) :: m, a, v =>
    if a < k then (if v = d then (k, w) :: m else (a, v) :: (k, w) :: m)
    else if a = k then (if v = d then m else (a, v) :: m)
    else (k, w) :: Memory.write d m a v

/-! ### Counters and clamps (00_scope.md, "Saturation and clamping") -/

/-- A saturating counter increased by 1: it stops at `max`. -/
def satInc (max n : Nat) : Nat := if n < max then n + 1 else max

/-- A 32-bit saturating counter increased by 1 when `b` holds. -/
def countIf (b : Bool) (n : Nat) : Nat := if b then satInc Config.max32 n else n

/-- The nearest value of lo–hi. -/
def clampNat (lo hi n : Nat) : Nat := if n < lo then lo else if hi < n then hi else n

/-- The nearest value of lo–hi, for integers. -/
def clampInt (lo hi n : Int) : Int := if n < lo then lo else if hi < n then hi else n

/-! ### Codes of SET ACQUISITION (R37) -/

/-- Fs of a sample rate code: 500, 1000, 2000 or 4000. -/
def fsOf (code : Fin 4) : Nat := 500 * 2 ^ code.val

/-- D of the run: 1, 2, 4 or 8. -/
def Conditioner.dec (c : Conditioner) : Nat := 2 ^ c.decimation.val

/-! ### The second schedule (R42) -/

/-- The second position at which index `i` of the second in progress is issued. -/
def Timebase.issueAt (t : Timebase) (i : Nat) : Nat := i * t.q + min i t.r

/-- The epoch in progress was opened in the present reference cycle. -/
def Timebase.justOpened (t : Timebase) : Bool := t.position == t.issueAt t.sampleIndex

/-- The divider ends the second in progress itself (R43): the second was begun in FREE or ACQUIRING, or
the state has become FREE during it, which is so exactly while the state is one of the two. -/
def Timebase.selfEnding (t : Timebase) : Bool := t.state = .free || t.state = .acquiring

/-! ### The travel-time store's banks (R63) -/

/-- The other bank's letter. -/
def BankId.other : BankId → BankId
  | .a => .b
  | .b => .a

/-- A bank by its letter. -/
def TableStore.bank (t : TableStore) : BankId → Bank
  | .a => t.bankA
  | .b => t.bankB

/-- A bank replaced. -/
def TableStore.setBank (t : TableStore) : BankId → Bank → TableStore
  | .a, b => { t with bankA := b }
  | .b, b => { t with bankB := b }

/-- The active bank. -/
def TableStore.activeBank (t : TableStore) : Bank := t.bank t.active

/-- The shadow bank. -/
def TableStore.shadowBank (t : TableStore) : Bank := t.bank t.active.other

/-- The shadow bank replaced. -/
def TableStore.setShadow (t : TableStore) (b : Bank) : TableStore := t.setBank t.active.other b

/-- The bank lock: a copy runs or a swap is pending (R72). -/
def TableStore.locked (t : TableStore) : Bool := t.copy.isSome || t.swapPending

/-- The delay of node `n` for channel `k`; 255 where nothing was written (R84). -/
def Bank.delay (b : Bank) (n k : Nat) : Byte := Memory.read 255 b.delays (48 * n + k)

/-- The region of node `n`; 0 where nothing was written (R84). -/
def Bank.region (b : Bank) (n : Nat) : Fin 16 := Memory.read 0 b.regions n

/-- The delay of node `n` for channel `k` replaced. -/
def Bank.setDelay (b : Bank) (n k : Nat) (v : Byte) : Bank :=
  { b with delays := Memory.write 255 b.delays (48 * n + k) v }

/-- The region of node `n` replaced. -/
def Bank.setRegion (b : Bank) (n : Nat) (r : Fin 16) : Bank :=
  { b with regions := Memory.write 0 b.regions n r }

/-! ### Updates of one entry -/

/-- One trunk receiver changed. -/
def State.onTrunk (s : State) (t : Fin 6) (f : Trunk → Trunk) : State :=
  s.withTrx (s.trx.set t (f s.trx[t]))

/-- One region of the builder changed. -/
def State.onRegion (s : State) (r : Fin 16) (f : Region → Region) : State :=
  s.withEvb { s.evb with regions := s.evb.regions.set r (f s.evb.regions[r]) }

/-- The mode controller's mode. -/
def State.mode (s : State) : Mode := s.mdc.mode

/-! ### The passing of time

Time is counted in reference cycles of 1/16.384 MHz; two engine cycles pass in each
(00_scope.md, "Clocks"). -/

/-- `n` reference cycles on the timebase: the reference counter, the second position and what is left of
the SMP pulse (R41, R42). -/
def Timebase.elapse (n : Nat) (t : Timebase) : Timebase :=
  { t with counter := t.counter + n, position := t.position + n, smpLeft := t.smpLeft - n }

/-- `n` reference cycles on the running pass: two engine cycles each (R90). -/
def Engine.elapse (n : Nat) (e : Engine) : Engine :=
  { e with pass := e.pass.map fun p => { p with cycles := p.cycles + 2 * n } }

/-- `n` reference cycles on the grant in progress: two engine cycles each (R78). -/
def TableStore.elapse (n : Nat) (t : TableStore) : TableStore :=
  { t with round := t.round.map fun r => { r with cyclesLeft := r.cyclesLeft - 2 * n } }

/-- `n` reference cycles on the gap timer, which runs inside a frame only (R172), and on the reply being sent
(R177). -/
def ControlPort.elapse (n : Nat) (c : ControlPort) : ControlPort :=
  { c with
    receiver := match c.receiver with
      | .hunting => .hunting
      | .inFrame f => .inFrame { f with gap := f.gap + n }
    sentFor := if c.transmit = [] then c.sentFor else c.sentFor + n }

/-- `n` reference cycles pass in which nothing falls due. -/
def State.elapse (n : Nat) (s : State) : State :=
  { s with tbu := s.tbu.elapse n, stk := s.stk.elapse n, tts := s.tts.elapse n, cpt := s.cpt.elapse n }

end Sys2Proof.Machine
end

