-- ==== Sys2Proof/Machine/Operands.lean ====
section
/-! DEFINITION. The byte forms of the control line and of the records: fields of request bodies, fields
of reply bodies, codes, labels, status bytes and the frame check (R173, R176, R189, R190). -/

namespace Sys2Proof.Machine

/-! ### Numbers as bytes, least significant byte first (R189) -/

/-- The `n` low bytes of a number, least significant first. -/
def le : Nat → Nat → List Byte
  | 0, _ => []
  | n + 1, v => BitVec.ofNat 8 v :: le n (v / 256)

/-- The `n` low bytes of an integer in two's complement, least significant first. -/
def leInt (n : Nat) (v : Int) : List Byte := le n (v % (256 : Int) ^ n).toNat

/-- The number that bytes give, least significant first. -/
def leValue : List Byte → Nat
  | [] => 0
  | b :: bs => b.toNat + 256 * leValue bs

/-- The field of `n` bytes at offset `off` of a body. -/
def field (body : List Byte) (off n : Nat) : Nat := leValue ((body.drop off).take n)

/-- Bit `i` of the byte at offset `off` of a body. -/
def flagBit (body : List Byte) (off i : Nat) : Bool := (body.getD off 0).getLsbD i

/-- A yes/no item of a reply: 1 for yes, 0 for no (R189). -/
def flag (b : Bool) : Byte := if b then 1 else 0

/-- One byte from a number. -/
def byte (n : Nat) : Byte := BitVec.ofNat 8 n

/-- The signed 24-bit value of three bytes, most significant first (01_..., "Frame reception"). -/
def sample24 (hi mid lo : Byte) : Int :=
  (hi.toInt * 256 + mid.toNat) * 256 + lo.toNat

/-! ### Codes (R189) -/

/-- Bank code. -/
def BankId.code : BankId → Byte
  | .a => 0
  | .b => 1

/-- Pointer mode code. -/
def PointerMode.code : PointerMode → Byte
  | .wrap => 0
  | .advance => 1

/-- Mode code. -/
def Mode.code : Mode → Byte
  | .standby => 0
  | .priming => 1
  | .listening => 2

/-- Channel state code. -/
def ChannelState.code : ChannelState → Byte
  | .disabled => 0
  | .live => 1
  | .stale => 2
  | .recovering => 3

/-- Timebase state or quality code. -/
def TimebaseState.code : TimebaseState → Byte
  | .free => 0
  | .acquiring => 1
  | .locked => 2
  | .holdover => 3

/-- Slot state code. -/
def Slot.code : Slot → Byte
  | .idle => 0
  | .opened _ => 1
  | .dead _ => 2

/-- Close reason code. -/
def CloseReason.code : CloseReason → Byte
  | .quiet => 0
  | .long => 1
  | .table => 2
  | .stopped => 3

/-- Excerpt status code. -/
def ExcerptStatus.code : ExcerptStatus → Byte
  | .queued => 0
  | .off => 1
  | .notTakenBusy => 2
  | .notTakenStopped => 3

/-- Excerpt mode code. -/
def ExcerptMode.code : ExcerptMode → Byte
  | .off => 0
  | .full => 1
  | .trim => 2
  | .coarsen => 3

/-- The excerpt mode of a code, none for a code the field does not list. -/
def ExcerptMode.ofCode : Nat → Option ExcerptMode
  | 0 => some .off
  | 1 => some .full
  | 2 => some .trim
  | 3 => some .coarsen
  | _ => none

/-- The bank of a code, none for a code the field does not list. -/
def BankId.ofCode : Nat → Option BankId
  | 0 => some .a
  | 1 => some .b
  | _ => none

/-- The pointer mode of a code, none for a code the field does not list. -/
def PointerMode.ofCode : Nat → Option PointerMode
  | 0 => some .wrap
  | 1 => some .advance
  | _ => none

/-- Line rate code. -/
def LineRate.code : LineRate → Byte
  | .baud115200 => 0
  | .baud460800 => 1
  | .baud921600 => 2
  | .baud3000000 => 3

/-- Nominal rate in baud (R168). -/
def LineRate.baud : LineRate → Nat
  | .baud115200 => 115200
  | .baud460800 => 460800
  | .baud921600 => 921600
  | .baud3000000 => 3000000

/-- A label: seconds, sample index, then quality in bits 0–1 and the step flag in bit 7 (R189). The bits
that the manual does not list are sent as 0 (notes/assumptions/20.md). -/
def Label.bytes (l : Label) : List Byte :=
  le 4 l.seconds ++ le 2 l.index ++ [l.quality.code ||| (if l.step then 0x80 else 0)]

/-- The write pointer as replies carry it: node, channel, mode (R190). -/
def Pointer.bytes (p : Pointer) : List Byte := le 2 p.node ++ [byte p.channel, p.mode.code]

/-! ### Status bytes (R176) -/

/-- OK -/
def statusOk : Byte := 0x00
/-- BAD_LENGTH -/
def statusBadLength : Byte := 0x01
/-- UNKNOWN_KIND -/
def statusUnknownKind : Byte := 0x02
/-- BAD_FIELD -/
def statusBadField : Byte := 0x03
/-- WRONG_MODE -/
def statusWrongMode : Byte := 0x04
/-- BUSY -/
def statusBusy : Byte := 0x05
/-- EMPTY -/
def statusEmpty : Byte := 0x06
/-- BANK_LOCKED -/
def statusBankLocked : Byte := 0x07

/-! ### The kinds (R179) -/

/-- The kind byte of a request. -/
def Request.kind : Request → Byte
  | .status => 0x01
  | .reset => 0x02
  | .setAcquisition => 0x10
  | .setChannel => 0x11
  | .channelReport => 0x12
  | .setRegion => 0x13
  | .setTime => 0x14
  | .tablePointer => 0x20
  | .tableWrite => 0x21
  | .tableRead => 0x22
  | .bankSize => 0x23
  | .regionMap => 0x24
  | .bankCopy => 0x25
  | .bankActivate => 0x26
  | .setMonitor => 0x30
  | .setExcerpt => 0x31
  | .setAttention => 0x32
  | .start => 0x40
  | .stop => 0x41
  | .fetchSummary => 0x50
  | .fetchExcerpt => 0x51

/-- All requests, in the order of the table in R179. -/
def Request.all : List Request :=
  [.status, .reset, .setAcquisition, .setChannel, .channelReport, .setRegion, .setTime, .tablePointer,
    .tableWrite, .tableRead, .bankSize, .regionMap, .bankCopy, .bankActivate, .setMonitor, .setExcerpt,
    .setAttention, .start, .stop, .fetchSummary, .fetchExcerpt]

/-- The request a kind names, if any (R179). -/
def Request.ofKind (kind : Byte) : Option Request := Request.all.find? fun r => r.kind == kind

/-- The one body length a request allows; TABLE WRITE allows its fixed part and 1–1024 delay bytes, its
count field agreeing with the length (R175, R189, R190). -/
def Request.lengthOk (r : Request) (body : List Byte) : Bool :=
  match r with
  | .status => body.length == 0
  | .reset => body.length == 0
  | .setAcquisition => body.length == 4
  | .setChannel => body.length == 11
  | .channelReport => body.length == 2
  | .setRegion => body.length == 11
  | .setTime => body.length == 7
  | .tablePointer => body.length == 4
  | .tableWrite =>
    2 ≤ body.length && 1 ≤ field body 0 2 && field body 0 2 ≤ 1024
      && body.length == 2 + field body 0 2
  | .tableRead => body.length == 6
  | .bankSize => body.length == 2
  | .regionMap => body.length == 5
  | .bankCopy => body.length == 0
  | .bankActivate => body.length == 0
  | .setMonitor => body.length == 4
  | .setExcerpt => body.length == 7
  | .setAttention => body.length == 1
  | .start => body.length == 0
  | .stop => body.length == 0
  | .fetchSummary => body.length == 0
  | .fetchExcerpt => body.length == 0

/-! ### The frame check (R173) -/

/-- One data bit taken into the running check. -/
def checkBit (c : Check) (bit : Bool) : Check :=
  if c.msb != bit then (c <<< 1) ^^^ 0x1021 else c <<< 1

/-- One byte taken into the running check, most significant bit first. -/
def checkByte (c : Check) (b : Byte) : Check :=
  [7, 6, 5, 4, 3, 2, 1, 0].foldl (fun c i => checkBit c (b.getLsbD i)) c

/-- The check over a run of bytes. -/
def checkOf (bs : List Byte) : Check := bs.foldl checkByte 0xFFFF

/-- A whole frame on the line: marker, kind, tag, body length, body and check (R170, R173, R176). -/
def frameBytes (kind tag : Byte) (body : List Byte) : List Byte :=
  let covered := kind :: tag :: (le 2 body.length ++ body)
  0xD3 :: (covered ++ le 2 (checkOf covered).toNat)

/-- A reply as the transmitter sends it. -/
def Reply.bytes (r : Reply) : List Byte := frameBytes r.kind r.tag r.body

/-- A byte on the line: a start bit, eight data bits with the least significant first, a stop bit
(09_..., "Pins and line rate"). -/
def lineBits (b : Byte) : List Bool := false :: ((List.range 8).map b.getLsbD ++ [true])

/-- The levels of TXD, bit by bit, while a reply is sent (R177). -/
def Reply.lineBits (r : Reply) : List Bool := r.bytes.flatMap Machine.lineBits

end Sys2Proof.Machine
end

