-- ==== Sys2Proof/Machine/Flags.lean ====
section
/-! DEFINITION. The flags and conditions that are calculated from the state: ATTN, the conditions of the
head extraction job, and the instants at which the part's own events fall due. -/

namespace Sys2Proof.Machine

/-! ### ATTN (R187) -/

/-- The level of ATTN: high while the summary queue holds at least the threshold. -/
def Reports.attnLevel (r : Reports) : Bool := r.threshold ≤ r.summaries.length

/-- ATTN judged anew. -/
def Reports.judge (r : Reports) : Reports := { r with attn := r.attnLevel }

/-! ### The excerpt queue's space (R185) -/

/-- Bytes the excerpt queue holds. -/
def Reports.bytesHeld (r : Reports) : Nat := (r.excerpts.map fun e => e.bytes.length).sum - r.headOffset

/-- Free space of the excerpt queue. -/
def Reports.freeSpace (r : Reports) : Nat := Config.excerptBytes - r.bytesHeld

/-! ### The head job (R136, R137) -/

/-- The last epoch of a job: the greatest a_k + Q − 1 over its list; 0 for an empty list (R189). -/
def Job.lastEpoch (j : Job) : Nat :=
  j.channels.foldl (fun m c => max m (c.arrival + j.post - 1)) 0

/-- The sample condition of R137. -/
def Job.samplesReady (j : Job) (newest : Option Nat) : Bool :=
  j.forced || j.channels.isEmpty || match newest with
    | none => false
    | some e => j.lastEpoch ≤ e

/-- The room condition of R137. -/
def Reports.hasRoom (r : Reports) : Bool := 32 ≤ r.freeSpace

/-- Both conditions hold for the head job. -/
def State.takeReady (s : State) : Bool :=
  match s.exu.jobs with
  | [] => false
  | j :: _ => j.samplesReady s.ccu.newestEpoch && s.rpq.hasRoom

/-! ### When the part's own events fall due -/

/-- Engine cycles as reference cycles, a started one counted whole. -/
def halfUp (n : Nat) : Nat := (n + 1) / 2

/-- Reference cycles until the pass in progress ends (R90). -/
def State.passEndIn (s : State) : Option Nat :=
  s.stk.pass.map fun p => halfUp (8 * p.nodeCount - p.cycles)

/-- Reference cycles until the grant in progress ends, if it is this one (R78). -/
def State.grantEndIn (s : State) (g : Grant) : Option Nat :=
  match s.tts.round with
  | none => none
  | some r => if r.grant = g then some (halfUp r.cyclesLeft) else none

/-- Something waits for the arbiter. -/
def TableStore.waits (t : TableStore) : Bool :=
  t.swapPending || t.waitingRead.isSome || t.copy.isSome

/-- The engine is idle, no origin waits and no round is in progress. -/
def State.arbiterIdle (s : State) : Bool :=
  s.stk.pass.isNone && s.stk.origins.isEmpty && s.tts.round.isNone

/-- An idle round falls due in this instant (R80). A request that lets something wait begins its round itself;
due and not begun is the round of a swap that STOP has left pending (R167, notes/assumptions/15.md). -/
def State.roundDue (s : State) : Bool := s.arbiterIdle && s.tts.waits

/-- The engine is free, the round of the boundary is over and an origin waits (R87). -/
def State.passStartDue (s : State) : Bool :=
  s.stk.pass.isNone && s.tts.round.isNone && !s.stk.origins.isEmpty

/-- The dead count of region `r` runs out within the origins that the pass in progress stands for
(R118, R123). -/
def State.deadCountEndsInPass (s : State) (r : Fin 16) : Bool :=
  match s.stk.pass, s.evb.regions[r].slot with
  | some p, .dead n => 1 ≤ n && n ≤ p.skippedBefore + 1
  | _, _ => false

/-- `some 0` when `b` holds. -/
def dueNow (b : Bool) : Option Nat := if b then some 0 else none

/-- Reference cycles from now until one of the part's own events falls due, none while it is not
scheduled or for a command that is not one of them. A rollover whose position already lies past C in use, as
after a soft reset, is due in 0 cycles (R43, R62, notes/assumptions/32.md). -/
def State.dueIn (s : State) : Instr → Option Nat
  | .sampleEpoch =>
    if s.tbu.sampleIndex + 1 < fsOf s.tbu.fsInForce
    then some (s.tbu.issueAt (s.tbu.sampleIndex + 1) - s.tbu.position) else none
  | .freeRunRollover => if s.tbu.selfEnding then some (s.tbu.cInUse - s.tbu.position) else none
  | .acquiringTimeout =>
    if s.tbu.state = .acquiring then some (Config.windowHigh - s.tbu.counter) else none
  | .holdoverEntry =>
    if s.tbu.state = .locked then some (s.tbu.cRef + Config.halfWindow - s.tbu.counter) else none
  | .holdoverExpiry =>
    if s.tbu.state = .holdover then some (s.tbu.cRef + Config.halfWindow - s.tbu.counter) else none
  | .tickCompletion => dueNow (s.ccu.stage = .completion)
  | .primingEnd => dueNow (s.ccu.stage = .primingEnd)
  | .passStart => dueNow s.passStartDue
  | .passEnd => s.passEndIn
  | .deadCountEnd r => if s.deadCountEndsInPass r then s.passEndIn else none
  | .readGrant => s.grantEndIn .read
  | .copySlice => s.grantEndIn .slice
  | .excerptTake => dueNow s.takeReady
  | .gapTimeout =>
    match s.cpt.receiver with
    | .hunting => none
    | .inFrame f => some (Config.gapLimit - f.gap)
  | .powerOnReset _ _ | .trunkByte _ _ | .pause _ | .breakWithinByte _ | .ppsEdge | .rxByte _ _
  | .replySent | .status _ _ | .reset _ _ | .setAcquisition _ _ | .setChannel _ _
  | .channelReport _ _ | .setRegion _ _ | .setTime _ _ | .tablePointer _ _ | .tableWrite _ _
  | .tableRead _ _ | .bankSize _ _ | .regionMap _ _ | .bankCopy _ _ | .bankActivate _ _
  | .setMonitor _ _ | .setExcerpt _ _ | .setAttention _ _ | .start _ _ | .stop _ _
  | .fetchSummary _ _ | .fetchExcerpt _ _ | .unknownKind _ _ _ | .trunkBit _ _
  | .moveToWaiting _ => none

/-- The part's own events, in the order in which `idle` takes those that fall due together
(notes/assumptions/6.md). DEAD_COUNT_END is a part of PASS_END. -/
def ownEvents : List Instr :=
  [.tickCompletion, .primingEnd, .excerptTake, .passEnd, .readGrant, .copySlice, .passStart,
    .acquiringTimeout, .holdoverEntry, .holdoverExpiry, .freeRunRollover, .sampleEpoch, .gapTimeout]

/-- None of the part's own events falls due in less than `n` reference cycles. -/
def State.quietFor (s : State) (n : Nat) : Bool :=
  ownEvents.all fun e => match s.dueIn e with
    | none => true
    | some d => n ≤ d

end Sys2Proof.Machine
end

