-- ==== Sys2Proof/Machine/Trunks.lean ====
section
/-! DEFINITION. The trunk receivers (TRX): taking bits and bytes, pauses, breaks, the samples of an epoch
handover, and the meanings of the trunk rows (R2–R8, R10). -/

namespace Sys2Proof.Machine

/-- The marker of a trunk frame (R4). -/
def trunkMarker : Byte := 0xB4

/-- Taking bits: WAITING or ASSEMBLING (R2). -/
def Trunk.takesBits (t : Trunk) : Bool := t.state = .waiting || t.state = .assembling

/-- A whole byte: checked against the marker in WAITING (R4), stored in ASSEMBLING (R5). -/
def Trunk.takeByte (b : Byte) (t : Trunk) : Trunk :=
  match t.state with
  | .waiting =>
    if b = trunkMarker then { t with state := .assembling, byteCount := 1 }
    else { t with state := .rejected, faults := satInc Config.max32 t.faults }
  | .assembling =>
    { t with
      frame := t.frame ++ [b]
      byteCount := t.byteCount + 1
      state := if t.byteCount + 1 = 26 then .complete else .assembling }
  | .arming | .complete | .rejected => t

/-- A rising edge of BCK with FV high: one bit of DIN, most significant bit of the byte first (R2). -/
def Trunk.takeBit (bit : Bool) (t : Trunk) : Trunk :=
  let t := { t with fv := true }
  if t.takesBits then
    let v := (t.byteInProgress <<< 1) ||| (if bit then 1 else 0)
    if t.bitCount < 7 then { t with bitCount := t.bitCount + 1, byteInProgress := v }
    else Trunk.takeByte v { t with bitCount := 0, byteInProgress := 0 }
  else t

/-- The eight bits of a byte, most significant first. -/
def Trunk.takeBits8 (b : Byte) (t : Trunk) : Trunk :=
  [7, 6, 5, 4, 3, 2, 1, 0].foldl (fun t i => t.takeBit (b.getLsbD i)) t

/-- FV falls: a pause between bytes (R6); inside a byte the bits of the incomplete byte are discarded
(R7). The bytes already taken are kept. -/
def Trunk.fvFalls (t : Trunk) : Trunk :=
  let t := { t with fv := false }
  if t.takesBits then { t with bitCount := 0, byteInProgress := 0 } else t

/-- A pause of FV: its fall, and its rise where the pause is `ended` (R6). A rise takes no bit; what R3 makes of
it is made at the SMP, from the level of FV there. -/
def Trunk.pause (ended : Bool) (t : Trunk) : Trunk := { t.fvFalls with fv := ended }

/-- A rising edge of BCK on which FV is sampled low: out of ARMING into WAITING, and no bit (R2, R3). If
FV was last seen high it has fallen since, with the effect of its fall. -/
def Trunk.lowEdge (t : Trunk) : Trunk :=
  let t := if t.fv then t.fvFalls else t
  if t.state = .arming then { t with state := .waiting } else t

/-- How many slots of the frame are complete at the SMP (R8). -/
def Trunk.newSlots (t : Trunk) : Nat :=
  match t.state with
  | .complete => 8
  | .assembling => (t.byteCount - 2) / 3
  | .arming | .waiting | .rejected => 0

/-- The sample of slot `i` at the handover: the value and the clip flag of a new sample, or none for a
held one (R8, R9). -/
def Trunk.sample (t : Trunk) (i : Nat) : Option (Int × Bool) :=
  if i < t.newSlots then
    some (sample24 (t.frame.getD (3 * i + 1) 0) (t.frame.getD (3 * i + 2) 0) (t.frame.getD (3 * i + 3) 0),
      (t.frame.getD 0 0).getLsbD i)
  else none

/-- The receiver made ready for the new epoch after the handover: a break counted if the epoch cut the
frame off (R8), the frame cleared, ARMING if FV is high and WAITING if it is low (R3). -/
def Trunk.rearm (t : Trunk) : Trunk :=
  { t with
    state := if t.fv then .arming else .waiting
    byteCount := 0
    bitCount := 0
    byteInProgress := 0
    frame := []
    breaks := countIf (t.state = .assembling) t.breaks }

/-- Soft reset of a trunk receiver (R3, R10). -/
def Trunk.softReset (t : Trunk) : Trunk := { Trunk.powerOn with fv := t.fv }

/-- The sample handed over for channel `k`: channel k is slot k mod 8 of trunk k div 8. -/
def State.sampleOf (s : State) (k : Fin 48) : Option (Int × Bool) :=
  s.trx[(⟨k.val / 8, by omega⟩ : Fin 6)].sample (k.val % 8)

/-! ### The trunk rows -/

/-- TRUNK_BYTE. -/
def execTrunkByte (trunk : Fin 6) (b : Byte) (s : State) : Result :=
  .next (s.onTrunk trunk (Trunk.takeBits8 b))

/-- TRUNK_BIT. -/
def execTrunkBit (trunk : Fin 6) (bit : Bool) (s : State) : Result :=
  .next (s.onTrunk trunk (Trunk.takeBit bit))

/-- PAUSE. FV falls, the bit count in the state deciding between R6 and R7, and rises again where the pause
is over. -/
def execPause (p : Pause) (s : State) : Result :=
  .next (s.onTrunk p.trunk (Trunk.pause p.ended))

/-- BREAK_WITHIN_BYTE. FV falls; the bit count in the state decides between R6 and R7. -/
def execBreakWithinByte (trunk : Fin 6) (s : State) : Result :=
  .next (s.onTrunk trunk Trunk.fvFalls)

/-- MOVE_TO_WAITING. -/
def execMoveToWaiting (trunk : Fin 6) (s : State) : Result :=
  .next (s.onTrunk trunk Trunk.lowEdge)

end Sys2Proof.Machine
end

