-- ==== Sys2Proof/Machine/Conditioner.lean ====
section
/-! DEFINITION. The channel conditioner (CCU): calibration, the raw rings, channel states, the tick
accumulation, the characteristic function, and what START and soft reset make of them (R9–R40). -/

namespace Sys2Proof.Machine

/-! ### Calibration (R11) -/

/-- Steps 1 to 3 of R11: x × (2048 + m) rounded half up by a right shift of 11 + e. -/
def calibrateExact (gain : Nat) (x : Int) : Int :=
  let e := gain / 2048
  let m := gain % 2048
  (x * (2048 + m) + 2 ^ (10 + e)) / 2 ^ (11 + e)

/-- Step 4 of R11. -/
def calibrate (gain : Nat) (x : Int) : Int :=
  clampInt Config.sampleMin Config.sampleMax (calibrateExact gain x)

/-- Step 4 changed the value. -/
def calibrateSaturates (gain : Nat) (x : Int) : Bool := calibrate gain x ≠ calibrateExact gain x

/-! ### One channel at an epoch handover -/

/-- In service: any state but DISABLED. -/
def Channel.inService (c : Channel) : Bool := c.state ≠ .disabled

/-- The enabled field of the record takes effect (R16). -/
def Channel.applyEnable (c : Channel) : Channel :=
  if c.state = .disabled ∧ c.record.enabled then
    { c with state := .recovering, goodRun := 0, heldRun := 0 }
  else if c.state ≠ .disabled ∧ ¬ c.record.enabled then
    { c with state := .disabled, goodRun := 0, heldRun := 0 }
  else c

/-- A new sample calibrated (R11), or a held one supplied (R12), its counts raised (R9, R17), and the
entry written to the raw ring (R13). -/
def Channel.takeSample (epoch : Nat) (sample : Option (Int × Bool)) (c : Channel) : Channel :=
  match sample with
  | some (x, clip) =>
    let y := calibrate c.record.gain x
    { c with
      last := y
      clipCount := countIf (c.inService && clip) c.clipCount
      saturationCount := countIf (c.inService && calibrateSaturates c.record.gain x) c.saturationCount
      rawRing := Memory.write .cleared c.rawRing (epoch % Config.rawRingLength)
        { value := y, held := false, clip := clip } }
  | none =>
    { c with
      heldCount := countIf c.inService c.heldCount
      rawRing := Memory.write .cleared c.rawRing (epoch % Config.rawRingLength)
        { value := c.last, held := true, clip := false } }

/-- The channel state steps on the sample of the handover (R15). -/
def Channel.stepState (isNew : Bool) (c : Channel) : Channel :=
  let heldRun := if isNew then 0 else satInc 255 c.heldRun
  match c.state, isNew with
  | .disabled, _ => c
  | .live, true => { c with heldRun := heldRun }
  | .live, false =>
    if c.record.staleLimit ≤ heldRun then
      { c with heldRun := heldRun, state := .stale, staleCount := satInc Config.max32 c.staleCount }
    else { c with heldRun := heldRun }
  | .stale, true =>
    { c with
      heldRun := heldRun
      goodRun := 1
      state := if c.record.recovery ≤ 1 then .live else .recovering }
  | .stale, false => { c with heldRun := heldRun }
  | .recovering, true =>
    let good := satInc 255 c.goodRun
    { c with
      heldRun := heldRun
      goodRun := good
      state := if c.record.recovery ≤ good then .live else .recovering }
  | .recovering, false =>
    { c with
      heldRun := heldRun
      goodRun := 0
      state := .stale
      staleCount := satInc Config.max32 c.staleCount }

/-- The sample just written (value `y`, held mark `held`) added to the tick accumulation, which starts
afresh at a tick's first epoch (R24). -/
def Channel.accumulate (first : Bool) (y : Int) (held : Bool) (c : Channel) : Channel :=
  let sum := if first then 0 else c.envelopeSum
  let anyHeld := if first then false else c.heldInTick
  let allLive := if first then true else c.liveThroughout
  { c with
    envelopeSum := sum + min y.natAbs 8388607
    heldInTick := anyHeld || held
    liveThroughout := allLive && c.state = .live }

/-- The value a handover writes to the raw ring: the calibrated new sample (R11), or the last calibrated
sample again (R12). -/
def Channel.valueOf (sample : Option (Int × Bool)) (c : Channel) : Int :=
  match sample with
  | some (x, _) => calibrate c.record.gain x
  | none => c.last

/-- The whole of a channel's handover for the numbered epoch `epoch` in PRIMING and LISTENING: pending
enable, sample and ring, state, accumulation, in that order (R13, R24). -/
def Channel.handover (epoch : Nat) (first : Bool) (sample : Option (Int × Bool)) (c : Channel) : Channel :=
  let c := c.applyEnable
  let y := c.valueOf sample
  ((c.takeSample epoch sample).stepState sample.isSome).accumulate first y sample.isNone

/-! ### One channel at a tick completion -/

/-- STA or LTA moved toward E by floor((E − average) / 2^shift) (R29, R31). -/
def moveAverage (average e shift : Nat) : Nat :=
  ((average : Int) + ((e : Int) - average) / 2 ^ shift).toNat

/-- c of R30: from the new STA, the old LTA and the noise floor. -/
def cfValue (sta lta noise : Nat) : Nat := min 255 (16 * sta / max lta (max noise 1 * 256))

/-- The CF entry of tick `t` formed and written (R27 to R33). -/
def Channel.completeTick (t d sShift lShift : Nat) (c : Channel) : Channel :=
  if c.state = .disabled ∨ c.heldInTick then
    { c with cfRing := Memory.write .cleared c.cfRing (t % Config.tickRingLength) .cleared }
  else
    let e := c.envelopeSum / d * 256
    let sta := moveAverage c.sta e sShift
    let v := cfValue sta c.lta c.record.noise
    let lta := if c.record.freeze = 0 ∨ v < c.record.freeze then moveAverage c.lta e lShift else c.lta
    { c with
      sta := sta
      lta := lta
      cfRing := Memory.write .cleared c.cfRing (t % Config.tickRingLength)
        { value := v, valid := c.liveThroughout } }

/-! ### All 48 channels -/

/-- Every channel changed by its number. -/
def Conditioner.eachChannel (c : Conditioner) (f : Fin 48 → Channel → Channel) : Conditioner :=
  { c with channels := Vector.ofFn fun k => f k c.channels[k] }

/-- The label in progress of the tick after the handover of epoch `epoch`, whose label is `l` (R25). -/
def Conditioner.nextTickLabel (c : Conditioner) (epoch : Nat) (l : Label) : Label :=
  if epoch % c.dec = 0 then l else { c.tickLabel with step := c.tickLabel.step || l.step }

/-- The conditioner's part of an epoch handover (R13, R16, R23–R25, R160): `samples` are the samples
handed over and `l` the label of the epoch that ends. -/
def Conditioner.handover (mode : Mode) (samples : Fin 48 → Option (Int × Bool)) (l : Label)
    (c : Conditioner) : Conditioner :=
  match mode, c.openEpoch with
  | .standby, _ => c.eachChannel fun _ ch => ch.applyEnable
  | _, none => { c.eachChannel (fun _ ch => ch.applyEnable) with openEpoch := some 0 }
  | _, some epoch =>
    { c.eachChannel (fun k ch => ch.handover epoch (epoch % c.dec = 0) (samples k)) with
      openEpoch := some (epoch + 1)
      newestEpoch := some epoch
      tickLabel := c.nextTickLabel epoch l
      stage := if epoch % c.dec + 1 = c.dec then .completion else c.stage }

/-- The conditioner's part of a tick completion: the CF entries of every channel, the tick label, the
tick count (R23, R25, R27–R33). -/
def Conditioner.completeTick (c : Conditioner) : Conditioner :=
  { c.eachChannel (fun _ ch => ch.completeTick c.tickCount c.dec c.staShift c.ltaShift) with
    labelRing := Memory.write .cleared c.labelRing (c.tickCount % Config.tickRingLength) c.tickLabel
    tickCount := c.tickCount + 1
    stage := .none }

/-- The channel state that a record gives at START and soft reset (R16, R19). -/
def ChannelRecord.initialState (r : ChannelRecord) : ChannelState :=
  if r.enabled then .recovering else .disabled

/-- What START clears of a channel; the record and the health counts are kept (R12, R14, R16, R17, R35). -/
def Channel.start (c : Channel) : Channel :=
  { c with
    state := c.record.initialState
    heldRun := 0
    goodRun := 0
    last := 0
    rawRing := []
    envelopeSum := 0
    heldInTick := false
    liveThroughout := true
    sta := 0
    lta := 0
    cfRing := [] }

/-- Soft reset of a channel: as at START, and the health counts 0 (R17, R19). -/
def Channel.softReset (c : Channel) : Channel :=
  { c.start with heldCount := 0, clipCount := 0, saturationCount := 0, staleCount := 0 }

/-- The conditioner with the runtime state of a run cleared and its channels changed by `f`
(R14, R26, R35, R160). -/
def Conditioner.clearRun (c : Conditioner) (f : Channel → Channel) : Conditioner :=
  { c.eachChannel (fun _ ch => f ch) with
    openEpoch := none
    newestEpoch := none
    tickCount := 0
    tickLabel := .cleared
    labelRing := []
    stage := .none }

/-- START on the conditioner (R159). -/
def Conditioner.start (c : Conditioner) : Conditioner := c.clearRun Channel.start

/-- Soft reset of the conditioner; the settings are kept (R19, R38). -/
def Conditioner.softReset (c : Conditioner) : Conditioner := c.clearRun Channel.softReset

/-- The newest CF entry of a channel (R39). -/
def Conditioner.newestEntry (c : Conditioner) (k : Fin 48) : CfEntry :=
  if c.tickCount = 0 then .cleared
  else Memory.read .cleared c.channels[k].cfRing ((c.tickCount - 1) % Config.tickRingLength)

/-! ### The requests of the conditioner: SET ACQUISITION, SET CHANNEL, CHANNEL REPORT -/

/-- SET ACQUISITION's fields and effect, the mode already checked (R37, R57). -/
def applySetAcquisition (body : List Byte) (s : State) : State × List Byte :=
  let rate := field body 0 1
  let dec := field body 1 1
  let sShift := field body 2 1
  let lShift := field body 3 1
  if h : rate < 4 ∧ dec < 4 then
    if 1 ≤ sShift ∧ sShift ≤ 7 ∧ 4 ≤ lShift ∧ lShift ≤ 14 ∧ sShift + 3 ≤ lShift then
      ({ s with
        ccu := { s.ccu with decimation := ⟨dec, h.2⟩, staShift := sShift, ltaShift := lShift }
        tbu := { s.tbu with fsSetting := ⟨rate, h.1⟩ } },
        [statusOk, byte rate, byte dec, byte sShift, byte lShift])
    else (s, [statusBadField])
  else (s, [statusBadField])

/-- The channel record that a SET CHANNEL body carries, clamped (R18). -/
def ChannelRecord.ofBody (body : List Byte) : ChannelRecord :=
  { enabled := flagBit body 1 0
    member := flagBit body 1 1
    gain := field body 2 2
    weight := clampNat 0 15 (field body 4 1)
    trigger := field body 5 1
    freeze := field body 6 1
    noise := field body 7 2
    staleLimit := clampNat 1 255 (field body 9 1)
    recovery := clampNat 1 255 (field body 10 1) }

/-- The ten bytes of a channel record in replies (R190, R192); unlisted bits are 0 (notes/assumptions/20.md). -/
def ChannelRecord.bytes (r : ChannelRecord) : List Byte :=
  [flag r.enabled ||| (flag r.member <<< 1)] ++ le 2 r.gain ++ [byte r.weight, byte r.trigger, byte r.freeze]
    ++ le 2 r.noise ++ [byte r.staleLimit, byte r.recovery]

/-- SET CHANNEL (R18). -/
def applySetChannel (body : List Byte) (s : State) : State × List Byte :=
  let k := field body 0 1
  if h : k < 48 then
    let r := ChannelRecord.ofBody body
    ({ s with ccu := { s.ccu with
        channels := s.ccu.channels.set k { s.ccu.channels[k] with record := r } } },
      statusOk :: byte k :: r.bytes)
  else (s, [statusBadField])

/-- The snapshot of a channel after the status byte (R21, R192). -/
def State.channelSnapshot (s : State) (k : Fin 48) : List Byte :=
  let c := s.ccu.channels[k]
  let e := s.ccu.newestEntry k
  let t := s.trx[(⟨k.val / 8, by omega⟩ : Fin 6)]
  [byte k.val] ++ c.record.bytes ++ [c.state.code, byte c.heldRun, byte c.goodRun] ++ leInt 3 c.last
    ++ le 4 c.heldCount ++ le 4 c.clipCount ++ le 4 c.saturationCount ++ le 4 c.staleCount
    ++ le 4 c.sta ++ le 4 c.lta ++ [byte e.value, flag e.valid]
    ++ [flag s.ccu.newestEpoch.isSome] ++ le 6 (s.ccu.newestEpoch.getD 0)
    ++ le 4 t.faults ++ le 4 t.breaks

/-- The four health counts set to 0 (R22). -/
def Channel.clearHealth (c : Channel) : Channel :=
  { c with heldCount := 0, clipCount := 0, saturationCount := 0, staleCount := 0 }

/-- CHANNEL REPORT (R20, R22). -/
def applyChannelReport (body : List Byte) (s : State) : State × List Byte :=
  let k := field body 0 1
  if h : k < 48 then
    let reply := statusOk :: s.channelSnapshot ⟨k, h⟩
    if flagBit body 1 0 then
      ({ s with ccu := { s.ccu with channels := s.ccu.channels.set k s.ccu.channels[k].clearHealth } },
        reply)
    else (s, reply)
  else (s, [statusBadField])

end Sys2Proof.Machine
end

