-- ==== Sys2Proof/Machine/Reports.lean ====
section
/-! DEFINITION. The report queues (RPQ): offers to the summary queue, record layouts, the two fetches, SET
ATTENTION (R183–R188, R193). -/

namespace Sys2Proof.Machine

/-! ### Offers (R183) -/

/-- An EVENT record is admitted while the queue holds fewer than 64. -/
def Reports.admitsEvent (r : Reports) : Bool := r.summaries.length < Config.summaryPlaces

/-- A MONITOR record is admitted while the queue holds 56 or fewer. -/
def Reports.admitsMonitor (r : Reports) : Bool := r.summaries.length ≤ Config.monitorFill

/-- An admitted record placed at the tail, ATTN judged anew (R187). -/
def Reports.append (r : Reports) (x : Summary) : Reports :=
  { r with summaries := r.summaries ++ [x] }.judge

/-! ### Record layouts (R193). The bits of a flags byte that the manual does not list are sent as 0
(notes/assumptions/20.md). -/

/-- The 95 bytes of an EVENT record. -/
def EventSummary.bytes (e : EventSummary) : List Byte :=
  let c := e.candidate
  [(0x01 : Byte)] ++ le 4 e.event ++ [byte e.region.val, e.reason.code] ++ le 6 c.openOrigin ++ le 6 e.closeOrigin
    ++ le 2 c.span ++ le 2 c.firings ++ [flag c.gap ||| (flag c.step <<< 1), c.bank.code]
    ++ le 6 c.peakOrigin ++ le 2 c.peakNode ++ [byte c.peakM, byte c.peakC] ++ le 2 c.peakWsum
    ++ c.peakLabel.bytes ++ c.peakDelays.toList ++ le 2 e.lostBefore ++ [e.status.code]

/-- The two bytes of a monitor value. -/
def TapValue.bytes (v : TapValue) : List Byte := [byte v.m, flag v.valid ||| (flag v.fired <<< 1)]

/-- The 91 bytes of a MONITOR record. -/
def MonitorRecord.bytes (m : MonitorRecord) : List Byte :=
  [(0x02 : Byte)] ++ le 2 m.node ++ [byte m.skip, m.block.bank.code] ++ le 6 m.block.firstOrigin
    ++ le 6 m.lastOrigin ++ m.block.firstLabel.bytes ++ [flag m.block.gap] ++ le 2 m.lostBlocks
    ++ m.block.values.flatMap TapValue.bytes

/-- A record of the summary queue as bytes. -/
def Summary.bytes : Summary → List Byte
  | .event e => e.bytes
  | .monitor m => m.bytes

/-! ### Requests -/

/-- FETCH SUMMARY (R184). -/
def applyFetchSummary (_body : List Byte) (s : State) : State × List Byte :=
  match s.rpq.summaries with
  | [] => (s, [statusEmpty])
  | x :: rest =>
    ({ s with rpq := { s.rpq with summaries := rest }.judge }, statusOk :: byte rest.length :: x.bytes)

/-- The bytes of the next chunk of an excerpt of which `offset` bytes are fetched (R186). -/
def Excerpt.chunk (e : Excerpt) (offset : Nat) : List Byte := (e.bytes.drop offset).take 1024

/-- The queue after a chunk of `n` bytes of its head excerpt has left it (R186). -/
def Reports.afterChunk (r : Reports) (n : Nat) : Reports :=
  match r.excerpts with
  | [] => r
  | e :: rest =>
    if r.headOffset + n = e.bytes.length then { r with excerpts := rest, headOffset := 0 }
    else { r with headOffset := r.headOffset + n }

/-- FETCH EXCERPT (R186). The space it frees is offered to the excerpt unit by the room condition. -/
def applyFetchExcerpt (_body : List Byte) (s : State) : State × List Byte :=
  match s.rpq.excerpts with
  | [] => (s, [statusEmpty])
  | e :: _ =>
    let offset := s.rpq.headOffset
    let chunk := e.chunk offset
    let last := offset + chunk.length = e.bytes.length
    let rpq := s.rpq.afterChunk chunk.length
    ({ s with rpq := rpq },
      [statusOk] ++ le 4 e.event ++ le 6 e.origin ++ e.label.bytes ++ le 4 e.bytes.length
        ++ le 4 offset ++ le 2 chunk.length ++ [flag last]
        ++ le 2 rpq.excerpts.length ++ le 4 rpq.bytesHeld ++ chunk)

/-- SET ATTENTION (R187). -/
def applySetAttention (body : List Byte) (s : State) : State × List Byte :=
  let threshold := clampNat 1 64 (field body 0 1)
  ({ s with rpq := { s.rpq with threshold := threshold }.judge },
    [statusOk, byte threshold, byte s.rpq.summaries.length])

/-- Soft reset of the report queues (R188). -/
def Reports.softReset (r : Reports) : Reports :=
  { r with summaries := [], excerpts := [], headOffset := 0 }.judge

end Sys2Proof.Machine
end

