-- ==== Sys2Proof/Machine/Excerpts.lean ====
section
/-! DEFINITION. The excerpt unit (EXU): cutting windows, block-shift encoding, fitting, the take, the
allowance, SET EXCERPT (R135–R156, R194). -/

namespace Sys2Proof.Machine

/-! ### Cutting (R136, R139) -/

/-- A segment that keeps at least one sample. -/
structure Segment where
  channel : Fin 48
  delay : Nat
  arrival : Nat
  /-- first epoch kept, counted from the arrival epoch -/
  offset : Int
  samples : List RawEntry
  headClip : Bool
  tailClip : Bool
deriving DecidableEq, Repr

/-- What cutting a channel's window gives. -/
inductive Cut where
  | segment (g : Segment)
  | gone
  | notReached
deriving DecidableEq, Repr

/-- The samples of epochs first to first + n − 1 of a channel's raw ring. -/
def ringSamples (ring : Memory RawEntry) (first n : Nat) : List RawEntry :=
  (List.range n).map fun i => Memory.read .cleared ring ((first + i) % Config.rawRingLength)

/-- The window of a job's channel compared with the available range (R139). -/
def cutWindow (ring : Memory RawEntry) (newest : Option Nat) (pre post : Nat) (j : JobChannel) : Cut :=
  match newest with
  | none => .notReached
  | some newest =>
    let start : Int := (j.arrival : Int) - pre
    let stop : Int := (j.arrival : Int) + post - 1
    let low : Int := (newest - (Config.rawRingLength - 1) : Nat)
    if stop < low then .gone
    else if (newest : Int) < start then .notReached
    else
      let first := max start low
      let last := min stop newest
      .segment
        { channel := j.channel
          delay := j.delay
          arrival := j.arrival
          offset := first - j.arrival
          samples := ringSamples ring first.toNat (last - first + 1).toNat
          headClip := start < low
          tailClip := (newest : Int) < stop }

/-- Earlier arrival first, then lower channel (R144). -/
def Segment.before (a b : Segment) : Bool :=
  a.arrival < b.arrival || (a.arrival == b.arrival && a.channel.val ≤ b.channel.val)

/-- A segment put at its place in an ordered list. -/
def insertSegment (g : Segment) : List Segment → List Segment
  | [] => [g]
  | h :: rest => if g.before h then g :: h :: rest else h :: insertSegment g rest

/-- The order of R144. -/
def orderSegments (gs : List Segment) : List Segment := gs.foldr insertSegment []

/-! ### Block-shift encoding (R142, R143) -/

/-- The two widths of encoded samples. -/
inductive Width where
  | bits16 | bits8
deriving DecidableEq, Repr

/-- Bytes of one encoded sample. -/
def Width.bytes : Width → Nat
  | .bits16 => 2
  | .bits8 => 1

/-- The greatest encoded value: 32,767 or 127. -/
def Width.top : Width → Nat
  | .bits16 => 32767
  | .bits8 => 127

/-- The greatest shift: 8 or 16. -/
def Width.maxShift : Width → Nat
  | .bits16 => 8
  | .bits8 => 16

/-- p: the greatest magnitude of a segment's samples. -/
def Segment.peak (g : Segment) : Nat := g.samples.foldl (fun m y => max m y.value.natAbs) 0

/-- The smallest shift at which the peak fits, the greatest shift where none does. -/
def shiftFor (w : Width) (p : Nat) : Nat :=
  ((List.range (w.maxShift + 1)).find? fun s => p ≤ w.top * 2 ^ s).getD w.maxShift

/-- A sample shifted right by `s`, rounded half up. -/
def roundShift (s : Nat) (y : Int) : Int := if s = 0 then y else (y + 2 ^ (s - 1)) / 2 ^ s

/-- The encoded sample, saturated. -/
def encodeSample (w : Width) (s : Nat) (y : Int) : Int :=
  clampInt (-(w.top : Int) - 1) w.top (roundShift s y)

/-- Some sample of the segment was changed by saturation. -/
def Segment.saturates (w : Width) (g : Segment) : Bool :=
  let s := shiftFor w g.peak
  g.samples.any fun y => encodeSample w s y.value ≠ roundShift s y.value

/-- A segment's size in bytes, its header included (R144). -/
def Segment.size (w : Width) (g : Segment) : Nat := 12 + w.bytes * g.samples.length

/-- The bytes of a segment: its 12-byte header and its samples (R194); unlisted bits are 0
(notes/assumptions/20.md). -/
def Segment.bytes (w : Width) (g : Segment) : List Byte :=
  let s := shiftFor w g.peak
  [byte g.channel.val, byte s ||| (if w = .bits8 then 0x80 else 0)] ++ leInt 2 g.offset
    ++ le 2 g.samples.length ++ le 2 (g.samples.countP fun y => y.held)
    ++ le 2 (g.samples.countP fun y => y.clip)
    ++ [flag g.headClip ||| (flag g.tailClip <<< 1) ||| (flag (g.saturates w) <<< 2), byte g.delay]
    ++ g.samples.flatMap fun y => leInt w.bytes (encodeSample w s y.value)

/-! ### Fitting (R147–R149, R151) -/

/-- The sum of the sizes of segments. -/
def totalSize (w : Width) (gs : List Segment) : Nat := (gs.map (Segment.size w)).sum

/-- Segments included in order while their sum is at or below the limit (R148). -/
def includeUpTo (w : Width) : Nat → List Segment → List Segment
  | _, [] => []
  | limit, g :: gs =>
    if g.size w ≤ limit then g :: includeUpTo w (limit - g.size w) gs else []

/-- The limit L of a take (R147). -/
def excerptLimit (mode : ExcerptMode) (free remaining : Nat) : Nat :=
  match mode with
  | .full => free - 32
  | .trim | .coarsen => min (free - 32) remaining
  | .off => 0

/-- The outcome of fitting: the width, the segments written and the segments omitted. -/
structure Fit where
  width : Width
  written : List Segment
  omitted : Nat
deriving DecidableEq, Repr

/-- Fitting in a mode against a limit (R148, R149, R151). -/
def fitSegments (mode : ExcerptMode) (limit : Nat) (gs : List Segment) : Fit :=
  match mode with
  | .off => { width := .bits16, written := [], omitted := gs.length }
  | .full | .trim =>
    let kept := includeUpTo .bits16 limit gs
    { width := .bits16, written := kept, omitted := gs.length - kept.length }
  | .coarsen =>
    if totalSize .bits16 gs ≤ limit then { width := .bits16, written := gs, omitted := 0 }
    else
      let kept := includeUpTo .bits8 limit gs
      { width := .bits8, written := kept, omitted := gs.length - kept.length }

/-! ### The excerpt of a job -/

/-- Everything a take decides about an excerpt. -/
structure Built where
  cuts : List Cut
  fit : Fit
  trimmed : Bool
  coarsened : Bool
deriving DecidableEq, Repr

/-- The cuts of a job's channels. -/
def State.cutsOf (s : State) (j : Job) : List Cut :=
  j.channels.map fun c =>
    cutWindow s.ccu.channels[c.channel].rawRing s.ccu.newestEpoch j.pre j.post c

/-- The segments among the cuts. -/
def segmentsOf (cuts : List Cut) : List Segment :=
  cuts.filterMap fun
    | .segment g => some g
    | .gone | .notReached => none

/-- A job's excerpt, cut, ordered and fitted with the rings, the mode, the free space and the allowance
as they stand (R138, R139, R144, R147–R151). -/
def State.build (s : State) (j : Job) : Built :=
  let cuts := s.cutsOf j
  let gs := orderSegments (segmentsOf cuts)
  let fit := fitSegments s.exu.mode (excerptLimit s.exu.mode s.rpq.freeSpace s.exu.allowanceLeft) gs
  { cuts := cuts
    fit := fit
    trimmed := s.exu.mode ≠ .off ∧ 1 ≤ fit.omitted
    coarsened := fit.width = .bits8 }

/-- The header's head-clip flag: a segment head-clipped or gone (R145). -/
def Built.headClip (b : Built) : Bool :=
  b.cuts.any fun
    | .segment g => g.headClip
    | .gone => true
    | .notReached => false

/-- The header's tail-clip flag: a segment tail-clipped or not reached (R145). -/
def Built.tailClip (b : Built) : Bool :=
  b.cuts.any fun
    | .segment g => g.tailClip
    | .gone => false
    | .notReached => true

/-- The missing count (R139, R145). -/
def Built.missing (b : Built) : Nat := b.cuts.length - (segmentsOf b.cuts).length

/-- The segment bytes of the excerpt. -/
def Built.segmentSize (b : Built) : Nat := totalSize b.fit.width b.fit.written

/-- The bytes of the excerpt: its 32-byte header and its segments (R145, R194); unlisted bits are 0
(notes/assumptions/20.md). -/
def Built.bytes (b : Built) (j : Job) (mode : ExcerptMode) : List Byte :=
  let w := b.fit.width
  le 4 j.event ++ le 4 (32 + b.segmentSize) ++ le 6 j.origin ++ j.label.bytes ++ [byte j.decimation]
    ++ le 2 j.pre ++ le 2 j.post ++ [mode.code ||| (if w = .bits8 then 0x80 else 0)]
    ++ [byte j.channels.length, byte b.fit.written.length, byte b.missing, byte b.fit.omitted]
    ++ [flag b.trimmed ||| (flag b.coarsened <<< 1) ||| (flag b.headClip <<< 2) ||| (flag b.tailClip <<< 3)
      ||| (flag j.forced <<< 4) ||| (flag (b.fit.written.any (Segment.saturates w)) <<< 5)]
    ++ b.fit.written.flatMap (Segment.bytes w)

/-- The excerpt unit after the head job's take: the job removed, the allowance charged (R150), the counts
raised (R153). -/
def ExcerptUnit.afterTake (u : ExcerptUnit) (b : Built) : ExcerptUnit :=
  { u with
    jobs := u.jobs.tail
    allowanceLeft := u.allowanceLeft - b.segmentSize
    excerptCount := satInc Config.max32 u.excerptCount
    trimmedCount := countIf b.trimmed u.trimmedCount
    coarsenedCount := countIf b.coarsened u.coarsenedCount }

/-- The take of the head job (R138): the job removed, its excerpt written whole, the allowance charged
and the counts raised. -/
def State.take (s : State) : State :=
  match s.exu.jobs with
  | [] => s
  | j :: _ =>
    let b := s.build j
    let x : Excerpt :=
      { event := j.event, origin := j.origin, label := j.label, bytes := b.bytes j s.exu.mode }
    { s with exu := s.exu.afterTake b, rpq := { s.rpq with excerpts := s.rpq.excerpts ++ [x] } }

/-- Takes that are due in this instant made one after another, at most `n` (R137). -/
def State.takeAll : Nat → State → State
  | 0, s => s
  | n + 1, s => if s.takeReady then State.takeAll n s.take else s

/-! ### Marks, START, STOP, resets -/

/-- The refill at a second mark (R146). -/
def ExcerptUnit.refill (u : ExcerptUnit) : ExcerptUnit :=
  { u with allowanceInForce := u.allowanceSetting, allowanceLeft := u.allowanceSetting }

/-- Every waiting job forced (R140). -/
def ExcerptUnit.forceAll (u : ExcerptUnit) : ExcerptUnit :=
  { u with jobs := u.jobs.map fun j => { j with forced := true } }

/-- The jobs that remain at START discarded and counted (R141). -/
def ExcerptUnit.discardAll (u : ExcerptUnit) : ExcerptUnit :=
  { u with jobs := [], discardedCount := min Config.max32 (u.discardedCount + u.jobs.length) }

/-- Soft reset of the excerpt unit (R156). -/
def ExcerptUnit.softReset (u : ExcerptUnit) : ExcerptUnit :=
  { u with jobs := [], excerptCount := 0, trimmedCount := 0, coarsenedCount := 0, discardedCount := 0 }

/-- SET EXCERPT (R152). -/
def applySetExcerpt (body : List Byte) (s : State) : State × List Byte :=
  match ExcerptMode.ofCode (field body 4 1) with
  | none => (s, [statusBadField])
  | some mode =>
    let pre := clampNat 0 1023 (field body 0 2)
    let post := clampNat 1 2047 (field body 2 2)
    let allowance := field body 5 2
    let u := { s.exu with pre := pre, post := post, mode := mode, allowanceSetting := allowance }
    ({ s with exu := u },
      [statusOk] ++ le 2 pre ++ le 2 post ++ [mode.code] ++ le 2 allowance
        ++ le 2 u.allowanceInForce ++ le 2 u.allowanceLeft)

end Sys2Proof.Machine
end

