-- ==== Sys2Proof/Machine/Builder.lean ====
section
/-! DEFINITION. The event builder (EVB): taking pass results, candidates, closes, declarations, SET REGION
(R113–R134). -/

namespace Sys2Proof.Machine

/-! ### What a pass delivers (R95, R96) -/

/-- A region best. -/
structure Best where
  node : Nat
  m : Nat
  c : Nat
  wsum : Nat
  delays : Vector Byte 48
deriving DecidableEq, Repr

/-- A pass result. -/
structure PassResult where
  origin : Nat
  skippedBefore : Nat
  bank : BankId
  label : Label
  best : Vector (Option Best) 16
deriving DecidableEq, Repr

/-! ### Candidates -/

/-- The candidate that a best opens (R119). -/
def Candidate.ofBest (b : Best) (p : PassResult) : Candidate :=
  { openOrigin := p.origin, peakOrigin := p.origin, peakNode := b.node, peakM := b.m, peakC := b.c,
    peakWsum := b.wsum, peakDelays := b.delays, peakLabel := p.label, span := 1, firings := 1, quiet := 0,
    gap := false, step := p.label.step, bank := p.bank }

/-- The peak after a firing origin: replaced whole by a greater M only (R121). -/
def Candidate.withPeak (b : Best) (p : PassResult) (c : Candidate) : Candidate :=
  if c.peakM < b.m then
    { c with peakOrigin := p.origin, peakNode := b.node, peakM := b.m, peakC := b.c, peakWsum := b.wsum,
             peakDelays := b.delays, peakLabel := p.label }
  else c

/-- The candidate after a firing origin, before the test for LONG (R120). -/
def Candidate.fires (b : Best) (p : PassResult) (c : Candidate) : Candidate :=
  { c.withPeak b p with
    span := c.span + 1
    firings := c.firings + 1
    quiet := 0
    step := c.step || p.label.step }

/-- The candidate after a non-firing origin, before the close tests (R122). -/
def Candidate.doesNotFire (skipped : Bool) (c : Candidate) : Candidate :=
  { c with span := c.span + 1, quiet := c.quiet + 1, gap := c.gap || skipped }

/-- The close origin: the last origin processed for the region (R124). -/
def Candidate.closeOrigin (c : Candidate) : Nat := c.openOrigin + c.span - 1

/-- A slot that becomes IDLE; a waiting disable takes effect (R115, R123, R124). -/
def Region.becomeIdle (r : Region) : Region :=
  { r with slot := .idle, inForce := r.inForce && r.record.enabled }

/-- The slot after a close: DEAD with the dead time, or IDLE where it is 0 (R124, step 3). A waiting disable takes
effect at such a close, one for STOPPED too (DESIGN CHOICE between R115 and R133, notes/assumptions/37.md). -/
def Region.afterClose (r : Region) : Region :=
  if r.record.deadTime = 0 then r.becomeIdle else { r with slot := .dead r.record.deadTime }

/-- The DEAD rule at an origin (R123). -/
def Region.deadStep (n : Nat) (r : Region) : Region :=
  if n ≤ 1 then r.becomeIdle else { r with slot := .dead (n - 1) }

/-! ### Declaring (R127–R132) -/

/-- The event counter after `n` (R127). -/
def nextEvent (n : Nat) : Nat := if n = Config.max32 then 1 else n + 1

/-- The excerpt status (R130). -/
def ExcerptUnit.statusFor (u : ExcerptUnit) (reason : CloseReason) : ExcerptStatus :=
  if u.mode = .off then .off
  else if reason = .stopped then .notTakenStopped
  else if 4 ≤ u.jobs.length then .notTakenBusy
  else .queued

/-- The channel list of a job: the used channels that are not DISABLED, with their arrival epochs
(R131). -/
def Conditioner.jobChannels (c : Conditioner) (k : Candidate) : List JobChannel :=
  (List.finRange 48).filterMap fun ch =>
    let d := k.peakDelays[ch]
    if d ≠ 255 ∧ c.channels[ch].inService then
      some { channel := ch, delay := d.toNat, arrival := (k.peakOrigin + d.toNat) * c.dec }
    else none

/-- The extraction job of an event (R131). -/
def State.jobFor (s : State) (event : Nat) (k : Candidate) : Job :=
  { event := event, origin := k.peakOrigin, label := k.peakLabel, decimation := s.ccu.dec,
    pre := s.exu.pre, post := s.exu.post, channels := s.ccu.jobChannels k, forced := false }

/-- The summary of a closed candidate (R129). -/
def State.summaryFor (s : State) (r : Fin 16) (reason : CloseReason) (k : Candidate) : EventSummary :=
  { event := s.evb.eventCounter, region := r, reason := reason, closeOrigin := k.closeOrigin,
    candidate := k, lostBefore := s.evb.lostBefore, status := s.exu.statusFor reason }

/-- The declaration of a closed candidate: number, summary offered, job appended or event lost
(R127, R128, R132). -/
def State.declareEvent (s : State) (r : Fin 16) (reason : CloseReason) (k : Candidate) : State :=
  let x := s.summaryFor r reason k
  if s.rpq.admitsEvent then
    { s with
      evb := { s.evb with eventCounter := nextEvent s.evb.eventCounter, lostBefore := 0 }
      rpq := s.rpq.append (.event x)
      exu := if x.status = .queued then
          { s.exu with jobs := s.exu.jobs ++ [s.jobFor s.evb.eventCounter k] }
        else s.exu }
  else
    { s with evb := { s.evb with
        eventCounter := nextEvent s.evb.eventCounter
        lostBefore := satInc Config.max16 s.evb.lostBefore
        lostTotal := satInc Config.max32 s.evb.lostTotal } }

/-- A close: the event declared, the candidate discarded, the slot DEAD or IDLE (R124). -/
def State.closeCandidate (s : State) (r : Fin 16) (reason : CloseReason) (k : Candidate) : State :=
  (s.declareEvent r reason k).onRegion r Region.afterClose

/-- Every OPEN candidate closed, in ascending region (R125, R126). Nothing else of the instant comes between two of
these declarations (DESIGN CHOICE, notes/assumptions/38.md). -/
def State.closeAll (s : State) (reason : CloseReason) : State :=
  (List.finRange 16).foldl
    (fun s r => match s.evb.regions[r].slot with
      | .opened k => s.closeCandidate r reason k
      | .idle | .dead _ => s) s

/-! ### Taking a pass result (R118) -/

/-- A candidate kept OPEN with its new contents. -/
def State.keepOpen (s : State) (r : Fin 16) (k : Candidate) : State :=
  s.onRegion r fun g => { g with slot := .opened k }

/-- A firing origin of an OPEN region (R120). -/
def State.firingOrigin (s : State) (r : Fin 16) (b : Best) (p : PassResult) (k : Candidate) : State :=
  let k := k.fires b p
  if s.evb.regions[r].record.maxSpan ≤ k.span then s.closeCandidate r .long k else s.keepOpen r k

/-- A non-firing origin of an OPEN region (R122). -/
def State.quietOrigin (s : State) (r : Fin 16) (skipped : Bool) (k : Candidate) : State :=
  let k := k.doesNotFire skipped
  if s.evb.regions[r].record.release ≤ k.quiet then s.closeCandidate r .quiet k
  else if s.evb.regions[r].record.maxSpan ≤ k.span then s.closeCandidate r .long k
  else s.keepOpen r k

/-- One region at one origin: `best` is none at a skipped origin (R118–R123). -/
def State.regionOrigin (s : State) (skipped : Bool) (p : PassResult) (r : Fin 16) : State :=
  let best := if skipped then none else p.best[r]
  match s.evb.regions[r].slot, best with
  | .idle, none => s
  | .idle, some b =>
    if s.evb.regions[r].inForce then s.keepOpen r (.ofBest b p) else s
  | .opened k, some b => s.firingOrigin r b p k
  | .opened k, none => s.quietOrigin r skipped k
  | .dead n, _ => s.onRegion r (Region.deadStep n)

/-- One origin, regions in ascending number. -/
def State.builderOrigin (s : State) (skipped : Bool) (p : PassResult) : State :=
  (List.finRange 16).foldl (fun s r => s.regionOrigin skipped p r) s

/-- The skipped origins, one after another. -/
def State.skippedOrigins (p : PassResult) : Nat → State → State
  | 0, s => s
  | n + 1, s => State.skippedOrigins p n (s.builderOrigin true p)

/-- The builder takes a pass result: its skipped origins, then its evaluated origin (R118). Nothing else of
the instant comes between two of its declarations (DESIGN CHOICE, notes/assumptions/38.md). -/
def State.takePassResult (s : State) (p : PassResult) : State :=
  (State.skippedOrigins p p.skippedBefore s).builderOrigin false p

/-! ### START, soft reset, SET REGION -/

/-- A region at START and at soft reset: IDLE, its enabled in force from the record (R116, R133). -/
def Region.clear (r : Region) : Region := { r with slot := .idle, inForce := r.record.enabled }

/-- All regions cleared. -/
def Builder.clearSlots (b : Builder) : Builder :=
  { b with regions := Vector.ofFn fun i => b.regions[i].clear }

/-- START on the builder (R133). -/
def Builder.start (b : Builder) : Builder := b.clearSlots

/-- Soft reset of the builder (R133). -/
def Builder.softReset (b : Builder) : Builder :=
  { b.clearSlots with eventCounter := 1, lostBefore := 0, lostTotal := 0 }

/-- The region record that a SET REGION body carries, clamped (R113). -/
def RegionRecord.ofBody (body : List Byte) : RegionRecord :=
  { enabled := flagBit body 1 0
    declareLevel := clampNat 1 255 (field body 2 1)
    coincidence := clampNat 1 48 (field body 3 1)
    minWeight := clampNat 1 720 (field body 4 2)
    release := clampNat 1 64 (field body 6 1)
    maxSpan := clampNat 8 4096 (field body 7 2)
    deadTime := clampNat 0 4095 (field body 9 2) }

/-- The ten bytes of a region record in the reply (R190). -/
def RegionRecord.bytes (r : RegionRecord) : List Byte :=
  [flag r.enabled, byte r.declareLevel, byte r.coincidence] ++ le 2 r.minWeight ++ [byte r.release]
    ++ le 2 r.maxSpan ++ le 2 r.deadTime

/-- A region whose record is replaced: an enable takes effect at once, a disable at once on an IDLE slot
and otherwise when the slot becomes IDLE (R115). -/
def Region.setRecord (rec : RegionRecord) (r : Region) : Region :=
  { r with
    record := rec
    inForce := if rec.enabled then true else if r.slot = .idle then false else r.inForce }

/-- SET REGION (R113). -/
def applySetRegion (body : List Byte) (s : State) : State × List Byte :=
  let n := field body 0 1
  if h : n < 16 then
    let rec' := RegionRecord.ofBody body
    let r : Fin 16 := ⟨n, h⟩
    let s := s.onRegion r (Region.setRecord rec')
    (s, [statusOk, byte n] ++ rec'.bytes ++ [flag s.evb.regions[r].inForce, s.evb.regions[r].slot.code])
  else (s, [statusBadField])

end Sys2Proof.Machine
end

