-- ==== Sys2Proof/Machine/Engine.lean ====
section
/-! DEFINITION. The stacking engine (STK): the origin queue, what a pass fixes, the stack of a node, region
bests, the monitor tap, SET MONITOR (R85–R112). -/

namespace Sys2Proof.Machine

/-! ### The origin queue (R85) -/

/-- An origin appended; the head discarded and counted where 4 wait. -/
def Engine.append (o : Nat) (e : Engine) : Engine :=
  if e.origins.length < 4 then { e with origins := e.origins ++ [o] }
  else
    { e with
      origins := e.origins.tail ++ [o]
      skippedSince := satInc Config.max16 e.skippedSince
      skippedTotal := satInc Config.max32 e.skippedTotal }

/-! ### A pass start (R86, R88, R89) -/

/-- What a pass fixes of a channel. -/
def PassChannel.ofChannel (c : Channel) : PassChannel :=
  { member := c.record.member, inService := c.inService, weight := c.record.weight,
    trigger := c.record.trigger }

/-- What a pass fixes of a region. -/
def PassRegion.ofRegion (r : Region) : PassRegion :=
  { mayFire := r.inForce, declareLevel := r.record.declareLevel, coincidence := r.record.coincidence,
    minWeight := r.record.minWeight }

/-- The pass context fixed at the take of origin `o`. -/
def State.passContext (s : State) (o : Nat) : PassContext :=
  { origin := o
    skippedBefore := s.stk.skippedSince
    bank := s.tts.active
    nodeCount := s.tts.activeBank.count
    channels := Vector.ofFn fun k => .ofChannel s.ccu.channels[k]
    regions := Vector.ofFn fun r => .ofRegion s.evb.regions[r]
    tapEnabled := s.stk.tapEnabled
    tapNode := s.stk.tapNode
    tapChanged := false
    cycles := 0 }

/-- The pass start: the head origin taken, the context fixed, skipped-since-last 0. -/
def State.startPass (s : State) : State :=
  match s.stk.origins with
  | [] => s
  | o :: rest =>
    { s with stk := { s.stk with origins := rest, pass := some (s.passContext o), skippedSince := 0 } }

/-! ### The stack of one node (R91–R94) -/

/-- The CF entry that delay `d` of origin `o` points to. -/
def Channel.entryAt (c : Channel) (o d : Nat) : CfEntry :=
  Memory.read .cleared c.cfRing ((o + d) % Config.tickRingLength)

/-- Channel `k` is used by a node at the pass's origin (R91). -/
def PassContext.uses (p : PassContext) (ccu : Conditioner) (bank : Bank) (n : Nat) (k : Fin 48) : Bool :=
  p.channels[k].member && p.channels[k].inService && bank.delay n k != 255
    && (ccu.channels[k].entryAt p.origin (bank.delay n k).toNat).valid

/-- c of the entry that channel `k` of a node points to. -/
def PassContext.cOf (p : PassContext) (ccu : Conditioner) (bank : Bank) (n : Nat) (k : Fin 48) : Nat :=
  (ccu.channels[k].entryAt p.origin (bank.delay n k).toNat).value

/-- The used channels of a node. -/
def PassContext.usedChannels (p : PassContext) (ccu : Conditioner) (bank : Bank) (n : Nat) :
    List (Fin 48) :=
  (List.finRange 48).filter (p.uses ccu bank n)

/-- What a node stacks to. -/
structure Stack where
  m : Nat
  c : Nat
  wsum : Nat
  fires : Bool
deriving DecidableEq, Repr

/-- Wsum: the weights of the used channels (R92). -/
def PassContext.weightSum (p : PassContext) (ccu : Conditioner) (bank : Bank) (n : Nat) : Nat :=
  ((p.usedChannels ccu bank n).map fun k => p.channels[k].weight).sum

/-- Csum: weight × c over the used channels (R92). -/
def PassContext.weightedSum (p : PassContext) (ccu : Conditioner) (bank : Bank) (n : Nat) : Nat :=
  ((p.usedChannels ccu bank n).map fun k => p.channels[k].weight * p.cOf ccu bank n k).sum

/-- C: the used channels at or above their trigger level (R93). -/
def PassContext.coincidenceCount (p : PassContext) (ccu : Conditioner) (bank : Bank) (n : Nat) : Nat :=
  (p.usedChannels ccu bank n).countP fun k => p.channels[k].trigger ≤ p.cOf ccu bank n k

/-- M: the weighted mean, 0 where Wsum is 0 (R92). -/
def PassContext.weightedMean (p : PassContext) (ccu : Conditioner) (bank : Bank) (n : Nat) : Nat :=
  if p.weightSum ccu bank n = 0 then 0 else p.weightedSum ccu bank n / p.weightSum ccu bank n

/-- The four tests of R94; a node of Wsum 0 does not fire (R92). -/
def PassRegion.passes (g : PassRegion) (m c wsum : Nat) : Bool :=
  g.mayFire && wsum != 0 && g.minWeight ≤ wsum && g.coincidence ≤ c && g.declareLevel ≤ m

/-- The stack of node `n` of the pass's bank. -/
def PassContext.stackOf (p : PassContext) (ccu : Conditioner) (bank : Bank) (n : Nat) : Stack :=
  let m := p.weightedMean ccu bank n
  let c := p.coincidenceCount ccu bank n
  let wsum := p.weightSum ccu bank n
  { m := m, c := c, wsum := wsum, fires := p.regions[bank.region n].passes m c wsum }

/-! ### Region bests (R95) -/

/-- A firing node of mean `m` and count `c` replaces a best. -/
def Best.yieldsTo (old : Option Best) (m c : Nat) : Bool :=
  match old with
  | none => true
  | some b => b.m < m || (b.m == m && b.c < c)

/-- The region bests after node `n`. -/
def PassContext.evaluate (p : PassContext) (ccu : Conditioner) (bank : Bank)
    (best : Vector (Option Best) 16) (n : Nat) : Vector (Option Best) 16 :=
  let k := p.stackOf ccu bank n
  let r := bank.region n
  if k.fires && Best.yieldsTo best[r] k.m k.c then
    best.set r (some
      { node := n, m := k.m, c := k.c, wsum := k.wsum, delays := Vector.ofFn fun ch => bank.delay n ch })
  else best

/-- The region bests after nodes 0 to n − 1, in index order (R90, R95). -/
def PassContext.bestsAfter (p : PassContext) (ccu : Conditioner) (bank : Bank) (n : Nat) :
    Vector (Option Best) 16 :=
  (List.range n).foldl (p.evaluate ccu bank) (Vector.replicate 16 none)

/-- The node that the engine evaluates in its present cycle (R90). -/
def PassContext.nextNode (p : PassContext) : Nat := p.cycles / 8

/-- The pass result (R96). -/
def State.passResult (s : State) (p : PassContext) : PassResult :=
  { origin := p.origin
    skippedBefore := p.skippedBefore
    bank := p.bank
    label := Memory.read .cleared s.ccu.labelRing (p.origin % Config.tickRingLength)
    best := p.bestsAfter s.ccu (s.tts.bank p.bank) p.nodeCount }

/-! ### The monitor tap (R102–R106) -/

/-- The tap value of a pass. -/
def State.tapValue (s : State) (p : PassContext) : TapValue :=
  let k := p.stackOf s.ccu (s.tts.bank p.bank) p.tapNode
  { m := k.m, valid := k.wsum != 0, fired := k.fires }

/-- A value kept in the block; the first one names the block's bank, origin and label (R102). -/
def MonitorBlock.keep (v : TapValue) (r : PassResult) (b : MonitorBlock) : MonitorBlock :=
  if b.values.isEmpty then
    { b with values := [v], bank := r.bank, firstOrigin := r.origin, firstLabel := r.label }
  else { b with values := b.values ++ [v] }

/-- The gap flag set by skipped origins inside the block's span (R103). -/
def MonitorBlock.markGap (skippedBefore : Nat) (b : MonitorBlock) : MonitorBlock :=
  { b with gap := b.gap || (1 ≤ skippedBefore && !b.values.isEmpty) }

/-- A block of 32 values offered to the summary queue and started afresh (R104, R105). -/
def State.completeBlock (s : State) (lastOrigin : Nat) : State :=
  if s.stk.block.values.length < 32 then s
  else
    let rec' : MonitorRecord :=
      { node := s.stk.tapNode, skip := s.stk.tapSkip, lastOrigin := lastOrigin, block := s.stk.block,
        lostBlocks := s.stk.lostBlocks }
    if s.rpq.admitsMonitor then
      { s with
        rpq := s.rpq.append (.monitor rec')
        stk := { s.stk with block := .empty, lostBlocks := 0 } }
    else { s with stk := { s.stk with block := .empty, lostBlocks := satInc Config.max16 s.stk.lostBlocks } }

/-- The pass offers its tap value (R102, R103). -/
def State.offerTap (s : State) (p : PassContext) (r : PassResult) (v : TapValue) : State :=
  if p.tapEnabled && !p.tapChanged then
    let block := s.stk.block.markGap p.skippedBefore
    if s.stk.countdown = 0 then
      State.completeBlock
        { s with stk := { s.stk with block := block.keep v r, countdown := s.stk.tapSkip } } p.origin
    else { s with stk := { s.stk with block := block, countdown := s.stk.countdown - 1 } }
  else s

/-- A pass end without the round that follows it: the result delivered and taken, the tap value offered,
the pass counted and its context discarded (R97). -/
def State.finishPass (s : State) (p : PassContext) : State :=
  let r := s.passResult p
  let v := s.tapValue p
  let s := (s.takePassResult r).offerTap p r v
  { s with stk := { s.stk with pass := none, passCount := satInc Config.max32 s.stk.passCount } }

/-- The swap notice on the engine: block discarded, countdown 0, the tap dropped where the new table lacks
its node (R106). -/
def Engine.swapNotice (newCount : Nat) (e : Engine) : Engine :=
  { e with
    block := .empty
    countdown := 0
    tapEnabled := e.tapEnabled && e.tapNode < newCount }

/-! ### START, STOP, soft reset (R107–R110) -/

/-- The engine at the start of a run: idle, nothing waiting, block discarded (R109). -/
def Engine.clearRun (e : Engine) : Engine :=
  { e with origins := [], pass := none, skippedSince := 0, block := .empty, countdown := 0 }

/-- Soft reset of the engine (R107, R110). -/
def Engine.softReset (e : Engine) : Engine :=
  { e.clearRun with skippedTotal := 0, passCount := 0, lostBlocks := 0 }

/-! ### SET MONITOR (R101) -/

/-- The tap settings as replies carry them. -/
def Engine.tapBytes (e : Engine) : List Byte := [flag e.tapEnabled] ++ le 2 e.tapNode ++ [byte e.tapSkip]

/-- What an accepted SET MONITOR does beside the settings: block discarded, countdown 0, a running pass
marked as changed for the tap. -/
def Engine.tapChanged (e : Engine) : Engine :=
  { e with block := .empty, countdown := 0, pass := e.pass.map fun p => { p with tapChanged := true } }

/-- SET MONITOR. -/
def applySetMonitor (body : List Byte) (s : State) : State × List Byte :=
  if flagBit body 0 0 then
    if field body 1 2 < s.tts.activeBank.count then
      let e := { s.stk with
        tapEnabled := true, tapNode := field body 1 2, tapSkip := clampNat 0 63 (field body 3 1) }.tapChanged
      ({ s with stk := e }, statusOk :: e.tapBytes)
    else (s, [statusBadField])
  else
    let e := { s.stk with tapEnabled := false }.tapChanged
    ({ s with stk := e }, statusOk :: e.tapBytes)

end Sys2Proof.Machine
end

