-- ==== Sys2Proof/Machine/Store.lean ====
section
/-! DEFINITION. The travel-time store (TTS): the write pointer, the bank requests, the copy job, the swap,
the arbiter's rounds and the events that end a pass or a grant (R63–R84). -/

namespace Sys2Proof.Machine

/-! ### The write pointer (R67) -/

/-- One step of the pointer. -/
def Pointer.next (p : Pointer) : Pointer :=
  if p.channel < 47 then { p with channel := p.channel + 1 }
  else match p.mode with
    | .wrap => { p with channel := 0 }
    | .advance => { p with node := if p.node < 4095 then p.node + 1 else 0, channel := 0 }

/-- Delay bytes stored in order at the pointer, which moves one step for each. -/
def storeDelays : List Byte → Pointer → Bank → Pointer × Bank
  | [], p, b => (p, b)
  | d :: ds, p, b => storeDelays ds p.next (b.setDelay p.node p.channel d)

/-- The delays that `n` steps of a walk from the pointer pass over (R68). -/
def readDelays (b : Bank) : Nat → Pointer → List Byte
  | 0, _ => []
  | n + 1, p => b.delay p.node p.channel :: readDelays b n p.next

/-! ### Swap (R76, R77) -/

/-- The roles change and the notice is delivered: the builder closes every OPEN candidate for TABLE
(R125), the engine discards its block and checks its tap (R106). -/
def State.swap (s : State) : State :=
  let s := { s with tts := { s.tts with active := s.tts.active.other, swapPending := false } }
  let s := s.closeAll .table
  { s with stk := s.stk.swapNotice s.tts.activeBank.count }

/-! ### Copy slices (R74) -/

/-- Records the next slice copies. -/
def CopyJob.slice (j : CopyJob) : Nat := min 64 (j.toCopy - j.copied)

/-- One delay copied from a bank to another. -/
def copyDelay (src : Bank) (dst : Bank) (n : Nat) (k : Nat) : Bank := dst.setDelay n k (src.delay n k)

/-- One node record copied: its 48 delays and its region. -/
def copyNode (src : Bank) (dst : Bank) (n : Nat) : Bank :=
  ((List.range 48).foldl (fun b k => copyDelay src b n k) dst).setRegion n (src.region n)

/-- `n` node records copied, from node `first` on. -/
def copyNodes (src : Bank) (first n : Nat) (dst : Bank) : Bank :=
  (List.range n).foldl (fun b i => copyNode src b (first + i)) dst

/-- The end of a copy slice: the records copied; when all are, the shadow count set and the job ended. -/
def TableStore.copySlice (t : TableStore) : TableStore :=
  match t.copy with
  | none => t
  | some j =>
    let copied := j.copied + j.slice
    let shadow := copyNodes t.activeBank j.copied j.slice t.shadowBank
    if j.toCopy ≤ copied then { t.setShadow { shadow with count := j.toCopy } with copy := none }
    else { t.setShadow shadow with copy := some { j with copied := copied } }

/-! ### Rounds (R78–R80) -/

/-- The round reaches the place of the copy slice, or ends. -/
def TableStore.reachSlice (t : TableStore) : TableStore :=
  { t with round := t.copy.map fun j => { grant := .slice, cyclesLeft := 16 * j.slice } }

/-- The round reaches the place of the waiting read. -/
def TableStore.reachRead (t : TableStore) : TableStore :=
  match t.waitingRead with
  | some _ => { t with round := some { grant := .read, cyclesLeft := 128 } }
  | none => t.reachSlice

/-- A round begins: the swap if one is pending, then the waiting read, then one copy slice (R78). -/
def State.startRound (s : State) : State :=
  let s := if s.tts.swapPending then s.swap else s
  { s with tts := s.tts.reachRead }

/-- An idle round begins at once where something waits (R80). -/
def State.serveIdle (s : State) : State := if s.roundDue then s.startRound else s

/-- A pass end: the result, the tap value, the count, then the arbiter's round (R79, R97). Nothing else of the
instant comes between the declarations of the result and those of the round's swap notice (DESIGN CHOICE,
notes/assumptions/38.md). -/
def State.endPass (s : State) : State :=
  match s.stk.pass with
  | none => s
  | some p => (s.finishPass p).startRound

/-- The end of a copy slice ends its round (R78, R80). -/
def State.endSlice (s : State) : State :=
  State.serveIdle { s with tts := { s.tts.copySlice with round := none } }

/-! ### The requests of the store; the bank lock is already checked -/

/-- TABLE POINTER (R65). -/
def applyTablePointer (body : List Byte) (s : State) : State × List Byte :=
  match PointerMode.ofCode (field body 3 1) with
  | none => (s, [statusBadField])
  | some mode =>
    if field body 0 2 < 4096 ∧ field body 2 1 < 48 then
      let p : Pointer := { node := field body 0 2, channel := field body 2 1, mode := mode }
      ({ s with tts := { s.tts with pointer := p } }, statusOk :: p.bytes)
    else (s, [statusBadField])

/-- A delay byte that cannot be stored: 240–254. -/
def badDelay (b : Byte) : Bool := 240 ≤ b.toNat && b.toNat ≤ 254

/-- TABLE WRITE (R66, R67). -/
def applyTableWrite (body : List Byte) (s : State) : State × List Byte :=
  let ds := body.drop 2
  if ds.any badDelay then (s, [statusBadField])
  else
    let (p, b) := storeDelays ds s.tts.pointer s.tts.shadowBank
    ({ s with tts := { s.tts.setShadow b with pointer := p } }, statusOk :: p.bytes)

/-- What an accepted TABLE READ returns, taken from the banks as they stand (R68). -/
def TableStore.readReply (t : TableStore) (r : ReadRequest) : List Byte :=
  let b := t.bank r.bank
  let touched := (r.channel + r.count - 1) / 48 + 1
  [statusOk, r.bank.code, flag (r.bank = t.active)] ++ le 2 b.count ++ le 2 r.node ++ [byte r.channel]
    ++ le 2 r.count
    ++ (List.range touched).map (fun i => byte (b.region ((r.node + i) % Config.bankNodes)).val)
    ++ readDelays b r.count { node := r.node, channel := r.channel, mode := .advance }

/-- The read that a TABLE READ body asks for, none where a field is refused (R68). -/
def ReadRequest.ofBody (body : List Byte) : Option ReadRequest :=
  match BankId.ofCode (field body 0 1) with
  | none => none
  | some bank =>
    if field body 1 2 < 4096 ∧ field body 3 1 < 48 ∧ 1 ≤ field body 4 2 ∧ field body 4 2 ≤ 1024 then
      some { bank := bank, node := field body 1 2, channel := field body 3 1, count := field body 4 2 }
    else none

/-- TABLE READ (R68, R69): answered at once, or none where the read becomes the waiting read. -/
def applyTableRead (body : List Byte) (s : State) : State × Option (List Byte) :=
  match ReadRequest.ofBody body with
  | none => (s, some [statusBadField])
  | some r =>
    if r.bank = s.tts.active ∧ s.mode ≠ .standby then
      (State.serveIdle { s with tts := { s.tts with waitingRead := some r } }, none)
    else (s, some (s.tts.readReply r))

/-- BANK SIZE (R70). -/
def applyBankSize (body : List Byte) (s : State) : State × List Byte :=
  let n := field body 0 2
  if n ≤ 4096 then
    ({ s with tts := s.tts.setShadow { s.tts.shadowBank with count := n } }, statusOk :: le 2 n)
  else (s, [statusBadField])

/-- The region of each node from `first` on, `n` nodes, set (R71). -/
def mapRegions (r : Fin 16) (first n : Nat) (b : Bank) : Bank :=
  (List.range n).foldl (fun b i => b.setRegion (first + i) r) b

/-- REGION MAP (R71). -/
def applyRegionMap (body : List Byte) (s : State) : State × List Byte :=
  let first := field body 0 2
  let last := field body 2 2
  let r := field body 4 1
  if h : r < 16 then
    if first ≤ last ∧ last < 4096 then
      let n := last - first + 1
      ({ s with tts := s.tts.setShadow (mapRegions ⟨r, h⟩ first n s.tts.shadowBank) },
        statusOk :: le 2 n)
    else (s, [statusBadField])
  else (s, [statusBadField])

/-- BANK COPY (R73). -/
def applyBankCopy (_body : List Byte) (s : State) : State × List Byte :=
  let n := s.tts.activeBank.count
  (State.serveIdle { s with tts := { s.tts with copy := some { toCopy := n, copied := 0 } } },
    statusOk :: le 2 n)

/-- BANK ACTIVATE (R75). The reply carries the active bank and the flag as they stand when the request
has set the flag, before any round grants the swap. -/
def applyBankActivate (_body : List Byte) (s : State) : State × List Byte :=
  if s.tts.shadowBank.count = 0 then (s, [statusBadField])
  else if s.mode = .standby then
    let s := s.swap
    (s, [statusOk, s.tts.active.code, flag s.tts.swapPending])
  else
    let s := { s with tts := { s.tts with swapPending := true } }
    (s.serveIdle, [statusOk, s.tts.active.code, flag s.tts.swapPending])

/-! ### STOP and soft reset -/

/-- STOP on the store: the copy abandoned with its slice in progress, everything else kept (R82). -/
def TableStore.stop (t : TableStore) : TableStore :=
  { t with
    copy := none
    round := t.round.filter fun r => r.grant = .read }

/-- Soft reset of the store (R83). -/
def TableStore.softReset (t : TableStore) : TableStore :=
  { t with pointer := .start, swapPending := false, copy := none, waitingRead := none, round := none }

/-! ### The part's own events -/

/-- An event of the part's own comes about: a round that is due is granted first, then time passes to the
instant at which the event falls due, and it is taken there. An event that is not scheduled, or before which
another falls due, does not come about, and beside that round the state stays as it is
(notes/assumptions/4.md, notes/assumptions/15.md). -/
def State.comeAbout (s : State) (e : Instr) (take : State → State) : State :=
  let s := s.serveIdle
  match s.dueIn e with
  | none => s
  | some n => if s.quietFor n then take (s.elapse n) else s

/-! ### The rows of takes, passes and slices -/

/-- EXCERPT_TAKE (R138), when the two conditions of R137 hold for the head job. -/
def execExcerptTake (s : State) : Result := .next (s.comeAbout .excerptTake State.take)

/-- PASS_START (R87). -/
def execPassStart (s : State) : Result := .next (s.comeAbout .passStart State.startPass)

/-- PASS_END (R97). -/
def execPassEnd (s : State) : Result := .next (s.comeAbout .passEnd State.endPass)

/-- DEAD_COUNT_END (R123): the dead count of a region runs out while the builder takes a pass result, so
the row is the pass end in which it does (notes/assumptions/7.md). -/
def execDeadCountEnd (region : Fin 16) (s : State) : Result :=
  .next (s.comeAbout (.deadCountEnd region) State.endPass)

/-- COPY_SLICE (R74). -/
def execCopySlice (s : State) : Result := .next (s.comeAbout .copySlice State.endSlice)

end Sys2Proof.Machine
end

