-- ==== Sys2Proof/Machine/Timebase.lean ====
section
/-! DEFINITION. The timebase (TBU) and the epoch event: handover, indices, second marks, the PPS states,
tick completion and the end of priming, SET TIME (R1, R23, R34, R41–R62, R161). -/

namespace Sys2Proof.Machine

/-! ### The epoch event -/

/-- The epoch handover (R8, R13): the trunks deliver, the conditioner takes the samples with the label of
the epoch that ends, the receivers are made ready for the new epoch. -/
def State.handover (s : State) : State :=
  { s with
    ccu := s.ccu.handover s.mode s.sampleOf s.tbu.label
    trx := Vector.ofFn fun t => s.trx[t].rearm }

/-- The next index of the schedule issued: SMP pulsed, the epoch in progress handed over, the epoch of
the index opened with its label (R1, R42, R58). A transition of the same reference cycle that is taken after the
index reaches the label by `Timebase.enter`. -/
def State.issueIndex (s : State) : State :=
  let i := s.tbu.sampleIndex + 1
  let h := s.handover
  { h with tbu := { h.tbu with
      sampleIndex := i
      smpLeft := Config.smpCycles
      label := { seconds := h.tbu.seconds, index := i, quality := h.tbu.state, step := false } } }

/-- The second that a mark begins (R42): Fs in force, C in use, q, r, position 0, index 0. -/
def Timebase.beginSecond (t : Timebase) : Timebase :=
  let c := if t.selfEnding then Config.nominalSecond else t.cRef
  { t with
    fsInForce := t.fsSetting
    cInUse := c
    q := c / fsOf t.fsSetting
    r := c - c / fsOf t.fsSetting * fsOf t.fsSetting
    position := 0
    sampleIndex := 0 }

/-- The seconds count after a mark and whether the mark applies a pending value (R45). A mark in the very
cycle in which another mark has begun the second moves the count no further. -/
def Timebase.nextSeconds (t : Timebase) : Nat × Bool :=
  if t.position = 0 then (t.seconds, false)
  else match t.pendingSeconds with
    | some v => (v, true)
    | none => ((t.seconds + 1) % 2 ^ 32, false)

/-- The mark's effects on the timebase (R42, R45, R58, R59); `step` says that the kind of the mark sets
the step flag. SMP's 16 cycles start afresh here, also where the pulse of a cut epoch is still high (DESIGN
CHOICE, notes/assumptions/33.md). -/
def Timebase.mark (step : Bool) (t : Timebase) : Timebase :=
  { t.beginSecond with
    seconds := t.nextSeconds.1
    pendingSeconds := if t.position = 0 then t.pendingSeconds else none
    smpLeft := Config.smpCycles
    label :=
      { seconds := t.nextSeconds.1, index := 0, quality := t.state, step := step || t.nextSeconds.2 } }

/-- A mark (R45), the transitions of its instant already made: the epoch in progress handed over, unless
the divider has opened it in this very cycle, the second begun, the allowance refilled (R146). A take that this
very handover makes due comes after the refill (DESIGN CHOICE, notes/assumptions/31.md). -/
def State.mark (step : Bool) (s : State) : State :=
  let h := if s.tbu.justOpened then s else s.handover
  { h with tbu := h.tbu.mark step, exu := h.exu.refill }

/-! ### PPS edges (R46–R52, R55) -/

/-- A transition that is no mark. The label of an epoch opened in this very cycle shows the state after the
transitions of its instant; that of an epoch in progress keeps its quality (R58). -/
def Timebase.enter (st : TimebaseState) (t : Timebase) : Timebase :=
  { t with
    state := st
    label := { t.label with quality := if t.justOpened then st else t.label.quality } }

/-- The measurement begun anew: streak 0, counter cleared (R47, R48, R49). -/
def Timebase.restartMeasurement (t : Timebase) : Timebase := { t with lockStreak := 0, counter := 0 }

/-- An accepted edge in ACQUIRING (R48). -/
def Timebase.acceptAcquiring (t : Timebase) : Timebase :=
  { t with cRef := t.counter, counter := 0, lockStreak := t.lockStreak + 1 }

/-- The entry into LOCKED (R50). -/
def Timebase.enterLocked (t : Timebase) : Timebase :=
  { t with state := .locked, locks := satInc Config.max32 t.locks }

/-- An accepted edge in LOCKED: C_ref follows the measured interval within its limit (R51). -/
def Timebase.acceptLocked (t : Timebase) : Timebase :=
  { t with cRef := clampNat Config.windowLow Config.windowHigh t.counter, counter := 0 }

/-- An outlier (R52). -/
def Timebase.outlier (t : Timebase) : Timebase := { t with outliers := satInc Config.max32 t.outliers }

/-- An accepted edge in HOLDOVER (R55). -/
def Timebase.returnToLocked (t : Timebase) : Timebase := { t with state := .locked, counter := 0 }

/-- The counter at an edge lies below C_ref − W. -/
def Timebase.early (t : Timebase) : Bool := t.counter + Config.halfWindow < t.cRef

/-- A recognised edge (R46). The counter passes no window: a timeout comes before (R48, R49, R53, R54). -/
def State.ppsEdge (s : State) : State :=
  let t := { s.tbu with ppsEdges := satInc Config.max32 s.tbu.ppsEdges }
  match t.state with
  | .free => { s with tbu := t.restartMeasurement.enter .acquiring }
  | .acquiring =>
    if t.counter < Config.windowLow then
      { s with tbu := { t.restartMeasurement with rejects := satInc Config.max32 t.rejects } }
    else if t.lockStreak + 1 < 4 then { s with tbu := t.acceptAcquiring }
    else State.mark true { s with tbu := t.acceptAcquiring.enterLocked }
  | .locked =>
    if t.early then { s with tbu := t.outlier }
    else State.mark false { s with tbu := t.acceptLocked }
  | .holdover =>
    if t.early then { s with tbu := t.outlier }
    else State.mark true { s with tbu := t.returnToLocked }

/-! ### Timeouts and marks of the timebase's own -/

/-- The ACQUIRING timeout (R49). -/
def State.acquiringTimeout (s : State) : State :=
  { s with tbu := s.tbu.restartMeasurement.enter .free }

/-- A free-run rollover (R43): in FREE it clears the counter. -/
def State.rollover (s : State) : State :=
  State.mark false
    { s with tbu := { s.tbu with counter := if s.tbu.state = .free then 0 else s.tbu.counter } }

/-- The entry into HOLDOVER (R53). -/
def State.enterHoldover (s : State) : State :=
  State.mark true
    { s with tbu := { s.tbu with
        state := .holdover
        counter := Config.halfWindow
        missed := 1
        holdovers := satInc Config.max32 s.tbu.holdovers } }

/-- The expiry in HOLDOVER: another synthetic mark, or FREE with a rollover at the limit (R54); the lock
streak is 0 from the entry into FREE (R50). -/
def State.expireHoldover (s : State) : State :=
  if s.tbu.missed < s.tbu.holdoverLimit then
    State.mark false
      { s with tbu := { s.tbu with counter := Config.halfWindow, missed := s.tbu.missed + 1 } }
  else State.mark false { s with tbu := { s.tbu with state := .free, lockStreak := 0, counter := 0 } }

/-! ### Tick completion and the end of priming (R23, R34, R161) -/

/-- The append step of a completion in LISTENING: origin t − 240, t the tick just completed (R34, R85). -/
def State.appendOrigin (s : State) : State :=
  { s with stk := s.stk.append (s.ccu.tickCount - 1 - Config.originLag) }

/-- A tick completion: CF entries, label and count; then in PRIMING the countdown, whose reaching 0 leaves
the end of priming to be taken in the same instant; in LISTENING the append. -/
def State.completeTick (s : State) : State :=
  let s := { s with ccu := s.ccu.completeTick }
  match s.mdc.mode with
  | .standby => s
  | .priming =>
    let n := s.mdc.countdown - 1
    { s with
      mdc := { s.mdc with countdown := n }
      ccu := { s.ccu with stage := if n = 0 then .primingEnd else .none } }
  | .listening => s.appendOrigin

/-- The end of priming: the mode becomes LISTENING, before the append of this completion (R161). -/
def State.endPriming (s : State) : State :=
  State.appendOrigin
    { s with
      mdc := { mode := .listening, countdown := 0 }
      ccu := { s.ccu with stage := .none } }

/-- What is left of the epoch event of this instant, taken: the completion belongs to that event (R23),
so nothing a request does comes between them. -/
def State.settleEpoch (s : State) : State :=
  let s := if s.ccu.stage = .completion then s.completeTick else s
  if s.ccu.stage = .primingEnd then s.endPriming else s

/-! ### Soft reset and SET TIME -/

/-- Soft reset of the timebase: FREE, the second in progress left where it stands (R62). -/
def Timebase.softReset (t : Timebase) : Timebase :=
  { t.enter .free with
    cRef := Config.nominalSecond
    lockStreak := 0
    missed := 0
    seconds := 0
    pendingSeconds := none
    counter := 0
    ppsEdges := 0
    rejects := 0
    outliers := 0
    locks := 0
    holdovers := 0 }

/-- The pending seconds after a seconds action, none where the action is none of the three (R56). -/
def pendingAfter (action value : Nat) (old : Option Nat) : Option (Option Nat) :=
  match action with
  | 0 => some old
  | 1 => some (some value)
  | 2 => some none
  | _ => none

/-- SET TIME (R56). -/
def applySetTime (body : List Byte) (s : State) : State × List Byte :=
  match pendingAfter (field body 0 1) (field body 1 4) s.tbu.pendingSeconds with
  | none => (s, [statusBadField])
  | some p =>
    let limit := clampNat 1 3600 (field body 5 2)
    ({ s with tbu := { s.tbu with pendingSeconds := p, holdoverLimit := limit } },
      [statusOk, flag p.isSome] ++ le 4 (p.getD 0) ++ le 2 limit ++ le 4 s.tbu.seconds
        ++ [s.tbu.state.code])

/-! ### The rows of the timebase and of the epoch event -/

/-- SAMPLE_EPOCH (R42). -/
def execSampleEpoch (s : State) : Result := .next (s.comeAbout .sampleEpoch State.issueIndex)

/-- PPS_EDGE (R46). -/
def execPpsEdge (s : State) : Result := .next s.ppsEdge

/-- ACQUIRING_TIMEOUT (R49). -/
def execAcquiringTimeout (s : State) : Result :=
  .next (s.comeAbout .acquiringTimeout State.acquiringTimeout)

/-- FREE_RUN_ROLLOVER (R43). -/
def execFreeRunRollover (s : State) : Result := .next (s.comeAbout .freeRunRollover State.rollover)

/-- HOLDOVER_ENTRY (R53). -/
def execHoldoverEntry (s : State) : Result := .next (s.comeAbout .holdoverEntry State.enterHoldover)

/-- HOLDOVER_EXPIRY (R54). -/
def execHoldoverExpiry (s : State) : Result := .next (s.comeAbout .holdoverExpiry State.expireHoldover)

/-- TICK_COMPLETION (R23). -/
def execTickCompletion (s : State) : Result := .next (s.comeAbout .tickCompletion State.completeTick)

/-- PRIMING_END (R161). -/
def execPrimingEnd (s : State) : Result := .next (s.comeAbout .primingEnd State.endPriming)

end Sys2Proof.Machine
end

