-- ==== Sys2Proof/Machine/Modes.lean ====
section
/-! DEFINITION. The mode controller (MDC): START, STOP, soft reset and power-on reset over all blocks
(R157–R167). -/

namespace Sys2Proof.Machine

/-- The priming count of a run: max(256, 2^l) (R159). -/
def primingCount (l : Nat) : Nat := max 256 (2 ^ l)

/-- The effect of an accepted START on all blocks (R159): the excerpt unit's jobs are discarded before the
rings they would read are cleared (R141). -/
def State.startRun (s : State) : State :=
  { s with
    mdc := { mode := .priming, countdown := primingCount s.ccu.ltaShift }
    exu := s.exu.discardAll
    ccu := s.ccu.start
    stk := s.stk.clearRun
    evb := s.evb.start }

/-- START, the mode already checked (R158, R159). A take whose conditions hold in this instant comes
before the discard (R137, R141). -/
def applyStart (_body : List Byte) (s : State) : State × List Byte :=
  let bank := s.tts.activeBank
  if bank.count = 0 then (s, [statusWrongMode])
  else
    let s := (State.takeAll s.exu.jobs.length s).startRun
    (s, [statusOk] ++ le 2 s.mdc.countdown ++ [s.tts.active.code] ++ le 2 bank.count
      ++ [byte s.ccu.dec, byte s.ccu.staShift, byte s.ccu.ltaShift])

/-- The effect of an accepted STOP on all blocks (R162, R163): the candidates closed for STOPPED, the jobs
forced, the pass and the copy abandoned; a swap left pending waits for the idle round that is then due
(R82, R108, R167). -/
def State.stopRun (s : State) : State :=
  let s := { s with
    mdc := { mode := .standby, countdown := 0 }
    stk := s.stk.clearRun
    ccu := { s.ccu with stage := .none }
    tts := s.tts.stop }
  let s := s.closeAll .stopped
  { s with exu := s.exu.forceAll }

/-- STOP, the mode already checked (R162). -/
def applyStop (_body : List Byte) (s : State) : State × List Byte :=
  (s.stopRun, [statusOk, s.mode.code] ++ le 6 s.ccu.tickCount)

/-- Soft reset of the control port: the line rate is kept (R181, R182). -/
def ControlPort.softReset (c : ControlPort) : ControlPort :=
  { c with
    receiver := .hunting
    executing := none
    waiting := []
    transmit := []
    sentFor := 0
    resetPending := false
    counters := .zero }

/-- The soft reset: every block by its own rule, the mode STANDBY (R165, R181). -/
def State.softReset (s : State) : State :=
  { s with
    trx := Vector.ofFn fun t => s.trx[t].softReset
    ccu := s.ccu.softReset
    tbu := s.tbu.softReset
    tts := s.tts.softReset
    stk := s.stk.softReset
    evb := s.evb.softReset
    exu := s.exu.softReset
    rpq := s.rpq.softReset
    cpt := s.cpt.softReset
    mdc := .powerOn }

/-- RESET: reset pending set and the reply OK alone (R181). -/
def applyReset (_body : List Byte) (s : State) : State × List Byte :=
  ({ s with cpt := { s.cpt with resetPending := true } }, [statusOk])

/-- POWER_ON_RESET (R166): every block at its power-on values, the line rate read from the straps (R168).
The queue of commands and the FV pins are not the part's and stay. -/
def execPowerOnReset (rate1 rate0 : Bool) (s : State) : Result :=
  let fresh := State.powerOn rate1 rate0
  .next { fresh with
    pending := s.pending
    trx := Vector.ofFn fun t => { fresh.trx[t] with fv := s.trx[t].fv } }

end Sys2Proof.Machine
end

