-- ==== Sys2Proof/Machine/Status.lean ====
section
/-! DEFINITION. The STATUS snapshot (R60, R84, R112, R134, R154, R180, R191). -/

namespace Sys2Proof.Machine

/-- Mode group. -/
def State.statusMode (s : State) : List Byte :=
  [s.mdc.mode.code] ++ le 2 s.mdc.countdown ++ le 6 s.ccu.tickCount

/-- Channels group. -/
def State.statusChannels (s : State) : List Byte :=
  (List.finRange 48).map fun k => s.ccu.channels[k].state.code

/-- Timebase group. -/
def State.statusTimebase (s : State) : List Byte :=
  let t := s.tbu
  [t.state.code] ++ le 4 t.seconds ++ [flag t.pendingSeconds.isSome] ++ le 4 (t.pendingSeconds.getD 0)
    ++ le 2 t.sampleIndex ++ le 4 t.cRef ++ [byte t.lockStreak] ++ le 2 t.missed ++ le 2 t.holdoverLimit
    ++ [byte t.fsSetting.val, byte t.fsInForce.val] ++ le 4 t.ppsEdges ++ le 4 t.rejects
    ++ le 4 t.outliers ++ le 4 t.locks ++ le 4 t.holdovers

/-- Store group. -/
def State.statusStore (s : State) : List Byte :=
  let t := s.tts
  let j := t.copy.getD { toCopy := 0, copied := 0 }
  [t.active.code] ++ le 2 t.bankA.count ++ le 2 t.bankB.count ++ [flag t.swapPending, flag t.copy.isSome]
    ++ le 2 j.toCopy ++ le 2 j.copied ++ t.pointer.bytes

/-- Engine group. -/
def State.statusEngine (s : State) : List Byte :=
  let e := s.stk
  [flag e.pass.isSome] ++ le 6 ((e.pass.map PassContext.origin).getD 0) ++ [byte e.origins.length]
    ++ le 6 (e.origins.headD 0) ++ le 2 e.skippedSince ++ le 4 e.skippedTotal ++ le 4 e.passCount
    ++ e.tapBytes ++ [byte e.block.values.length, flag e.block.gap] ++ le 2 e.lostBlocks

/-- The 13 bytes of a region (R191). The bits of the slot byte that the manual does not list are sent as 0
(notes/assumptions/20.md). -/
def Region.statusBytes (r : Region) : List Byte :=
  let head := r.slot.code ||| (flag r.inForce <<< 7)
  match r.slot with
  | .idle => [head] ++ le 6 0 ++ le 2 0 ++ [0, 0] ++ le 2 0
  | .opened c => [head] ++ le 6 c.openOrigin ++ le 2 c.span ++ [byte c.quiet, byte c.peakM] ++ le 2 0
  | .dead n => [head] ++ le 6 0 ++ le 2 0 ++ [0, 0] ++ le 2 n

/-- Builder group. -/
def State.statusBuilder (s : State) : List Byte :=
  ((List.finRange 16).flatMap fun r => s.evb.regions[r].statusBytes)
    ++ le 4 s.evb.eventCounter ++ le 2 s.evb.lostBefore ++ le 4 s.evb.lostTotal

/-- The head job's fields: present, event, last epoch, and its byte of flags, whose unlisted bits are sent as 0
(notes/assumptions/20.md). -/
def State.statusHeadJob (s : State) : List Byte :=
  match s.exu.jobs with
  | [] => [(0 : Byte)] ++ le 4 0 ++ le 6 0 ++ [0]
  | j :: _ =>
    [(1 : Byte)] ++ le 4 j.event ++ le 6 j.lastEpoch
      ++ [flag j.forced ||| (flag (!s.rpq.hasRoom) <<< 1)
        ||| (flag (!j.samplesReady s.ccu.newestEpoch) <<< 2)]

/-- Excerpt unit group. -/
def State.statusExcerpts (s : State) : List Byte :=
  let u := s.exu
  [byte u.jobs.length] ++ s.statusHeadJob ++ le 2 u.pre ++ le 2 u.post ++ [u.mode.code]
    ++ le 2 u.allowanceSetting ++ le 2 u.allowanceInForce ++ le 2 u.allowanceLeft ++ le 4 u.excerptCount
    ++ le 4 u.trimmedCount ++ le 4 u.coarsenedCount ++ le 4 u.discardedCount

/-- Report queues group. -/
def State.statusReports (s : State) : List Byte :=
  [byte s.rpq.summaries.length] ++ le 2 s.rpq.excerpts.length ++ le 4 s.rpq.bytesHeld
    ++ [byte s.rpq.threshold]

/-- The nine link counters in the order of R178. -/
def LinkCounters.bytes (c : LinkCounters) : List Byte :=
  le 4 c.huntDiscards ++ le 4 c.lineErrors ++ le 4 c.lengthDrops ++ le 4 c.gapDrops ++ le 4 c.checkDrops
    ++ le 4 c.kindDrops ++ le 4 c.validFrames ++ le 4 c.busys ++ le 4 c.overflowDrops

/-- Control port group. -/
def State.statusPort (s : State) : List Byte :=
  [s.cpt.lineRate.code, byte s.cpt.waiting.length, byte s.cpt.transmit.length] ++ s.cpt.counters.bytes

/-- The snapshot, after the status byte. -/
def State.statusSnapshot (s : State) : List Byte :=
  s.statusMode ++ s.statusChannels ++ s.statusTimebase ++ s.statusStore ++ s.statusEngine
    ++ s.statusBuilder ++ s.statusExcerpts ++ s.statusReports ++ s.statusPort

/-- STATUS (R180). -/
def applyStatus (_body : List Byte) (s : State) : State × List Byte :=
  (s, statusOk :: s.statusSnapshot)

end Sys2Proof.Machine
end

