-- ==== Sys2Proof/Machine/Port.lean ====
section
/-! DEFINITION. The control port (CPT): the receiver, the backlog, execution, replies and the transmit
queue, with the rows RX_BYTE, GAP_TIMEOUT, REPLY_SENT and READ_GRANT (R168–R182). -/

namespace Sys2Proof.Machine

/-! ### Execution of one request (R175) -/

/-- The requests that the mode check of R164 covers: accepted in STANDBY alone, or in a run alone. -/
def Request.modeOk (r : Request) (m : Mode) : Bool :=
  match r with
  | .start | .setAcquisition => m = .standby
  | .stop => m ≠ .standby
  | .status | .reset | .setChannel | .channelReport | .setRegion | .setTime | .tablePointer
  | .tableWrite | .tableRead | .bankSize | .regionMap | .bankCopy | .bankActivate | .setMonitor
  | .setExcerpt | .setAttention | .fetchSummary | .fetchExcerpt => true

/-- The requests that the bank lock refuses (R72). -/
def Request.needsUnlocked (r : Request) : Bool :=
  match r with
  | .tableWrite | .bankSize | .regionMap | .bankCopy | .bankActivate => true
  | .status | .reset | .setAcquisition | .setChannel | .channelReport | .setRegion | .setTime
  | .tablePointer | .tableRead | .setMonitor | .setExcerpt | .setAttention | .start | .stop
  | .fetchSummary | .fetchExcerpt => false

/-- An outcome whose reply is formed in the event of the execution. -/
def answered (x : State × List Byte) : State × Option (List Byte) := (x.1, some x.2)

/-- A request carried out by the block that owns it (R179): the new state and the reply body, none where
the request waits for its grant. -/
def Request.apply (r : Request) (body : List Byte) (s : State) : State × Option (List Byte) :=
  match r with
  | .status => answered (applyStatus body s)
  | .reset => answered (applyReset body s)
  | .setAcquisition => answered (applySetAcquisition body s)
  | .setChannel => answered (applySetChannel body s)
  | .channelReport => answered (applyChannelReport body s)
  | .setRegion => answered (applySetRegion body s)
  | .setTime => answered (applySetTime body s)
  | .tablePointer => answered (applyTablePointer body s)
  | .tableWrite => answered (applyTableWrite body s)
  | .tableRead => applyTableRead body s
  | .bankSize => answered (applyBankSize body s)
  | .regionMap => answered (applyRegionMap body s)
  | .bankCopy => answered (applyBankCopy body s)
  | .bankActivate => answered (applyBankActivate body s)
  | .setMonitor => answered (applySetMonitor body s)
  | .setExcerpt => answered (applySetExcerpt body s)
  | .setAttention => answered (applySetAttention body s)
  | .start => answered (applyStart body s)
  | .stop => answered (applyStop body s)
  | .fetchSummary => answered (applyFetchSummary body s)
  | .fetchExcerpt => answered (applyFetchExcerpt body s)

/-- The checks that precede a request's own work, in the order of R175, and then the work. -/
def answerFrame (f : Frame) (s : State) : State × Option (List Byte) :=
  match Request.ofKind f.kind with
  | none => (s, some [statusUnknownKind])
  | some r =>
    if !r.lengthOk f.body then (s, some [statusBadLength])
    else if !r.modeOk s.mode then (s, some [statusWrongMode])
    else if r.needsUnlocked && s.tts.locked then (s, some [statusBankLocked])
    else r.apply f.body s

/-- The reply frame to a frame (R176). -/
def Frame.reply (f : Frame) (body : List Byte) : Reply :=
  { kind := f.kind + 0x80, tag := f.tag, body := body }

/-- A reply formed by execution: placed at the tail of the transmit queue, or waiting for a place as the
executing request (R175, R177). -/
def State.placeReply (s : State) (r : Reply) : State :=
  if s.cpt.transmit.length < 4 then { s with cpt := { s.cpt with transmit := s.cpt.transmit ++ [r] } }
  else { s with cpt := { s.cpt with executing := some (.replyWaiting r) } }

/-- A frame executed, what is left of the epoch event of this instant taken first. -/
def State.executeFrame (s : State) (f : Frame) : State :=
  match answerFrame f s.settleEpoch with
  | (s, some body) => s.placeReply (f.reply body)
  | (s, none) => { s with cpt := { s.cpt with executing := some (.tableRead f.tag) } }

/-- The waiting frames executed one after another, at most `n`, while nothing stays executing and reset
pending is clear (R175). Nothing else of the instant comes between two of them, and the takes that
one of them makes due are rows of their own behind them (DESIGN CHOICE, notes/assumptions/39.md). -/
def State.runBacklog : Nat → State → State
  | 0, s => s
  | n + 1, s =>
    if s.cpt.executing.isSome || s.cpt.resetPending then s
    else match s.cpt.waiting with
      | [] => s
      | f :: rest =>
        State.runBacklog n (State.executeFrame { s with cpt := { s.cpt with waiting := rest } } f)

/-- All waiting frames that can be executed in this instant. -/
def State.runWaiting (s : State) : State := State.runBacklog s.cpt.waiting.length s

/-! ### Valid frames and the backlog (R174) -/

/-- The link counters changed. -/
def State.count (s : State) (f : LinkCounters → LinkCounters) : State :=
  { s with cpt := { s.cpt with counters := f s.cpt.counters } }

/-- Frames in the backlog: the executing request and the waiting ones. -/
def ControlPort.backlog (c : ControlPort) : Nat :=
  (if c.executing.isSome then 1 else 0) + c.waiting.length

/-- A frame refused with BUSY: the reply placed, or, with the transmit queue full, the frame dropped
(R174, R177). -/
def State.refuseBusy (s : State) (f : Frame) : State :=
  if s.cpt.transmit.length < 4 then
    { s with cpt := { s.cpt with
        transmit := s.cpt.transmit ++ [f.reply [statusBusy]]
        counters := { s.cpt.counters with busys := satInc Config.max32 s.cpt.counters.busys } } }
  else s.count fun c => { c with overflowDrops := satInc Config.max32 c.overflowDrops }

/-- A frame whose check matches: a reply kind dropped, a valid frame counted and placed (R174). -/
def State.acceptFrame (s : State) (f : Frame) : State :=
  if 0x80 ≤ f.kind.toNat then
    s.count fun c => { c with kindDrops := satInc Config.max32 c.kindDrops }
  else
    let s := s.count fun c => { c with validFrames := satInc Config.max32 c.validFrames }
    if s.cpt.backlog < 3 then
      State.runWaiting { s with cpt := { s.cpt with waiting := s.cpt.waiting ++ [f] } }
    else s.refuseBusy f

/-- A request frame completes with a matching check: how a request row reaches the port
(notes/assumptions/8.md). A body that no frame can carry drops the frame for its length (R171). -/
def State.hostSends (s : State) (kind tag : Byte) (body : List Byte) : State :=
  if Config.maxBody < body.length then
    s.count fun c => { c with lengthDrops := satInc Config.max32 c.lengthDrops }
  else s.acceptFrame { kind := kind, tag := tag, body := body }

/-! ### The receiver (R169–R173) -/

/-- The marker of a control-line frame. -/
def lineMarker : Byte := 0xD3

/-- A frame begun by its marker (R170). The manual says nothing of kind, tag, length and first check byte before
their own bytes are taken: 0 is a DESIGN CHOICE that nothing reads (notes/assumptions/40.md). -/
def FrameInProgress.start : FrameInProgress :=
  { position := 1, kind := 0, tag := 0, length := 0, body := [], check := 0xFFFF, checkLow := 0, gap := 0 }

/-- The receiver replaced. -/
def State.receive (s : State) (r : Receiver) : State := { s with cpt := { s.cpt with receiver := r } }

/-- A complete frame judged by its check; the receiver hunts again whatever the judgement (R171, R173). -/
def State.completeFrame (s : State) (f : FrameInProgress) (checkHigh : Byte) : State :=
  let s := s.receive .hunting
  if f.check.toNat = leValue [f.checkLow, checkHigh] then
    s.acceptFrame { kind := f.kind, tag := f.tag, body := f.body }
  else s.count fun c => { c with checkDrops := satInc Config.max32 c.checkDrops }

/-- A good byte taken at the next frame position (R171). -/
def State.takeFrameByte (s : State) (f : FrameInProgress) (b : Byte) : State :=
  let g := { f with position := f.position + 1, gap := 0 }
  if f.position = 1 then
    s.receive (.inFrame { g with kind := b, check := checkByte f.check b })
  else if f.position = 2 then
    s.receive (.inFrame { g with tag := b, check := checkByte f.check b })
  else if f.position = 3 then
    s.receive (.inFrame { g with length := b.toNat, check := checkByte f.check b })
  else if f.position = 4 then
    let length := f.length + 256 * b.toNat
    if Config.maxBody < length then
      (s.receive .hunting).count fun c => { c with lengthDrops := satInc Config.max32 c.lengthDrops }
    else s.receive (.inFrame { g with length := length, check := checkByte f.check b })
  else if f.position < 5 + f.length then
    s.receive (.inFrame { g with body := f.body ++ [b], check := checkByte f.check b })
  else if f.position = 5 + f.length then s.receive (.inFrame { g with checkLow := b })
  else s.completeFrame f b

/-- A good byte (R170, R171). -/
def State.goodByte (s : State) (b : Byte) : State :=
  match s.cpt.receiver with
  | .inFrame f => s.takeFrameByte f b
  | .hunting =>
    if b = lineMarker then s.receive (.inFrame .start)
    else s.count fun c => { c with huntDiscards := satInc Config.max32 c.huntDiscards }

/-- A line error: counted, and a frame in progress dropped (R169). -/
def State.lineError (s : State) : State :=
  (s.receive .hunting).count fun c => { c with lineErrors := satInc Config.max32 c.lineErrors }

/-- The gap timer's expiry (R172). -/
def State.gapExpires (s : State) : State :=
  (s.receive .hunting).count fun c => { c with gapDrops := satInc Config.max32 c.gapDrops }

/-! ### The transmitter and the read grant -/

/-- The place in the head reply's bits that the transmitter has reached: a free value within the 0.5 per cent
that the manual gives for the bit rate (notes/assumptions/10.md). -/
def ControlPort.bitPlace (c : ControlPort) : Nat :=
  clampNat (c.sentFor * c.lineRate.baud * 995 / (1000 * Config.nominalSecond))
    (c.sentFor * c.lineRate.baud * 1005 / (1000 * Config.nominalSecond))
    (Config.bitsOut c.lineRate.baud c.sentFor)

/-- The level of TXD: high while nothing is sent, as after power-on reset (R168), and otherwise the bit of the
head reply that the transmitter has reached (R177). -/
def ControlPort.txd (c : ControlPort) : Bool :=
  match c.transmit with
  | [] => true
  | r :: _ => r.lineBits.getD c.bitPlace true

/-- The reply to RESET: kind 82h and status OK (R181). -/
def Reply.endsReset (r : Reply) : Bool := r.kind == 0x82 && r.body == [statusOk]

/-- The head reply has been sent (R177): after the reply to RESET the soft reset (R181); otherwise a reply
waiting for a place takes the freed one, the next reply is begun at once, and the backlog moves on. The rollover that a soft reset makes due at
once (R43, R62) is a FREE_RUN_ROLLOVER of its own, so another event of that cycle may come between (DESIGN
CHOICE, notes/assumptions/32.md). -/
def State.replySent (s : State) : State :=
  match s.cpt.transmit with
  | [] => s
  | r :: rest =>
    if s.cpt.resetPending && r.endsReset then s.softReset
    else
      let s := { s with cpt := { s.cpt with transmit := rest, sentFor := 0 } }
      match s.cpt.executing with
      | some (.replyWaiting w) =>
        State.runWaiting { s with cpt := { s.cpt with transmit := rest ++ [w], executing := none } }
      | some (.tableRead _) => s
      | none => s.runWaiting

/-- The waiting read's end (R69, R79): its delays taken, the round on to its next grant or at its end. -/
def State.grantRead (s : State) : State :=
  State.serveIdle { s with tts := { s.tts with waitingRead := none }.reachSlice }

/-- The end of the read's grant: the reply formed from the banks as they stand, and execution moved on
(R69, R175, R180). That the read is taken at the end of its 128 cycles and not at their start is a DESIGN CHOICE
(notes/assumptions/34.md), and so is that the waiting frames are executed after the round has moved on and before
anything else of the instant, the pass start among it (notes/assumptions/35.md). -/
def State.endReadGrant (s : State) : State :=
  match s.tts.waitingRead, s.cpt.executing with
  | some r, some (.tableRead tag) =>
    let body := s.tts.readReply r
    let s := { s.grantRead with cpt := { s.grantRead.cpt with executing := none } }
    (s.placeReply { kind := Request.tableRead.kind + 0x80, tag := tag, body := body }).runWaiting
  | _, _ => s.grantRead

/-! ### The rows of the port and of the read grant -/

/-- RX_BYTE (R169). -/
def execRxByte (b : Byte) (stopHigh : Bool) (s : State) : Result :=
  .next (if stopHigh then s.goodByte b else s.lineError)

/-- GAP_TIMEOUT (R172). -/
def execGapTimeout (s : State) : Result := .next (s.comeAbout .gapTimeout State.gapExpires)

/-- REPLY_SENT (R177). -/
def execReplySent (s : State) : Result := .next s.replySent

/-- READ_GRANT (R69). -/
def execReadGrant (s : State) : Result := .next (s.comeAbout .readGrant State.endReadGrant)

end Sys2Proof.Machine
end

