-- ==== Sys2Proof/Machine/Requests.lean ====
section
/-! DEFINITION. The request rows. Each is the completion of that request's frame (R174); the frame is
executed at once where the port is free, and otherwise waits in the backlog or is answered BUSY. What the
request then does is `Request.apply` and the `apply…` definition of its block. -/

namespace Sys2Proof.Machine

/-- STATUS (R180). -/
def execStatus (tag : Byte) (body : List Byte) (s : State) : Result :=
  .next (s.hostSends Request.status.kind tag body)

/-- RESET (R181). -/
def execReset (tag : Byte) (body : List Byte) (s : State) : Result :=
  .next (s.hostSends Request.reset.kind tag body)

/-- SET ACQUISITION (R37). -/
def execSetAcquisition (tag : Byte) (body : List Byte) (s : State) : Result :=
  .next (s.hostSends Request.setAcquisition.kind tag body)

/-- SET CHANNEL (R18). -/
def execSetChannel (tag : Byte) (body : List Byte) (s : State) : Result :=
  .next (s.hostSends Request.setChannel.kind tag body)

/-- CHANNEL REPORT (R20). -/
def execChannelReport (tag : Byte) (body : List Byte) (s : State) : Result :=
  .next (s.hostSends Request.channelReport.kind tag body)

/-- SET REGION (R113). -/
def execSetRegion (tag : Byte) (body : List Byte) (s : State) : Result :=
  .next (s.hostSends Request.setRegion.kind tag body)

/-- SET TIME (R56). -/
def execSetTime (tag : Byte) (body : List Byte) (s : State) : Result :=
  .next (s.hostSends Request.setTime.kind tag body)

/-- TABLE POINTER (R65). -/
def execTablePointer (tag : Byte) (body : List Byte) (s : State) : Result :=
  .next (s.hostSends Request.tablePointer.kind tag body)

/-- TABLE WRITE (R66). -/
def execTableWrite (tag : Byte) (body : List Byte) (s : State) : Result :=
  .next (s.hostSends Request.tableWrite.kind tag body)

/-- TABLE READ (R68). -/
def execTableRead (tag : Byte) (body : List Byte) (s : State) : Result :=
  .next (s.hostSends Request.tableRead.kind tag body)

/-- BANK SIZE (R70). -/
def execBankSize (tag : Byte) (body : List Byte) (s : State) : Result :=
  .next (s.hostSends Request.bankSize.kind tag body)

/-- REGION MAP (R71). -/
def execRegionMap (tag : Byte) (body : List Byte) (s : State) : Result :=
  .next (s.hostSends Request.regionMap.kind tag body)

/-- BANK COPY (R73). -/
def execBankCopy (tag : Byte) (body : List Byte) (s : State) : Result :=
  .next (s.hostSends Request.bankCopy.kind tag body)

/-- BANK ACTIVATE (R75). -/
def execBankActivate (tag : Byte) (body : List Byte) (s : State) : Result :=
  .next (s.hostSends Request.bankActivate.kind tag body)

/-- SET MONITOR (R101). -/
def execSetMonitor (tag : Byte) (body : List Byte) (s : State) : Result :=
  .next (s.hostSends Request.setMonitor.kind tag body)

/-- SET EXCERPT (R152). -/
def execSetExcerpt (tag : Byte) (body : List Byte) (s : State) : Result :=
  .next (s.hostSends Request.setExcerpt.kind tag body)

/-- SET ATTENTION (R187). -/
def execSetAttention (tag : Byte) (body : List Byte) (s : State) : Result :=
  .next (s.hostSends Request.setAttention.kind tag body)

/-- START (R159). -/
def execStart (tag : Byte) (body : List Byte) (s : State) : Result :=
  .next (s.hostSends Request.start.kind tag body)

/-- STOP (R162). -/
def execStop (tag : Byte) (body : List Byte) (s : State) : Result :=
  .next (s.hostSends Request.stop.kind tag body)

/-- FETCH SUMMARY (R184). -/
def execFetchSummary (tag : Byte) (body : List Byte) (s : State) : Result :=
  .next (s.hostSends Request.fetchSummary.kind tag body)

/-- FETCH EXCERPT (R186). -/
def execFetchExcerpt (tag : Byte) (body : List Byte) (s : State) : Result :=
  .next (s.hostSends Request.fetchExcerpt.kind tag body)

/-- UNKNOWN_KIND (R179): the frame's own kind, which names no request, is examined at its execution. -/
def execUnknownKind (kind tag : Byte) (body : List Byte) (s : State) : Result :=
  .next (s.hostSends kind tag body)

end Sys2Proof.Machine
end

