-- ==== Sys2Proof/Machine/Dispatch.lean ====
section
/-! DEFINITION. One arm for every command of spec/opcode_table.json, in the table's order. -/

namespace Sys2Proof.Machine

def exec (i : Instr) (s : State) : Host.Outcome State Fault Refusal :=
  match i with
  | .powerOnReset rate1 rate0 => Sys2Proof.Machine.execPowerOnReset rate1 rate0 s
  | .sampleEpoch => Sys2Proof.Machine.execSampleEpoch s
  | .tickCompletion => Sys2Proof.Machine.execTickCompletion s
  | .primingEnd => Sys2Proof.Machine.execPrimingEnd s
  | .trunkByte trunk byte => Sys2Proof.Machine.execTrunkByte trunk byte s
  | .pause p => Sys2Proof.Machine.execPause p s
  | .breakWithinByte trunk => Sys2Proof.Machine.execBreakWithinByte trunk s
  | .ppsEdge => Sys2Proof.Machine.execPpsEdge s
  | .acquiringTimeout => Sys2Proof.Machine.execAcquiringTimeout s
  | .freeRunRollover => Sys2Proof.Machine.execFreeRunRollover s
  | .holdoverEntry => Sys2Proof.Machine.execHoldoverEntry s
  | .holdoverExpiry => Sys2Proof.Machine.execHoldoverExpiry s
  | .passStart => Sys2Proof.Machine.execPassStart s
  | .passEnd => Sys2Proof.Machine.execPassEnd s
  | .deadCountEnd region => Sys2Proof.Machine.execDeadCountEnd region s
  | .readGrant => Sys2Proof.Machine.execReadGrant s
  | .copySlice => Sys2Proof.Machine.execCopySlice s
  | .excerptTake => Sys2Proof.Machine.execExcerptTake s
  | .rxByte byte stopHigh => Sys2Proof.Machine.execRxByte byte stopHigh s
  | .gapTimeout => Sys2Proof.Machine.execGapTimeout s
  | .replySent => Sys2Proof.Machine.execReplySent s
  | .status tag body => Sys2Proof.Machine.execStatus tag body s
  | .reset tag body => Sys2Proof.Machine.execReset tag body s
  | .setAcquisition tag body => Sys2Proof.Machine.execSetAcquisition tag body s
  | .setChannel tag body => Sys2Proof.Machine.execSetChannel tag body s
  | .channelReport tag body => Sys2Proof.Machine.execChannelReport tag body s
  | .setRegion tag body => Sys2Proof.Machine.execSetRegion tag body s
  | .setTime tag body => Sys2Proof.Machine.execSetTime tag body s
  | .tablePointer tag body => Sys2Proof.Machine.execTablePointer tag body s
  | .tableWrite tag body => Sys2Proof.Machine.execTableWrite tag body s
  | .tableRead tag body => Sys2Proof.Machine.execTableRead tag body s
  | .bankSize tag body => Sys2Proof.Machine.execBankSize tag body s
  | .regionMap tag body => Sys2Proof.Machine.execRegionMap tag body s
  | .bankCopy tag body => Sys2Proof.Machine.execBankCopy tag body s
  | .bankActivate tag body => Sys2Proof.Machine.execBankActivate tag body s
  | .setMonitor tag body => Sys2Proof.Machine.execSetMonitor tag body s
  | .setExcerpt tag body => Sys2Proof.Machine.execSetExcerpt tag body s
  | .setAttention tag body => Sys2Proof.Machine.execSetAttention tag body s
  | .start tag body => Sys2Proof.Machine.execStart tag body s
  | .stop tag body => Sys2Proof.Machine.execStop tag body s
  | .fetchSummary tag body => Sys2Proof.Machine.execFetchSummary tag body s
  | .fetchExcerpt tag body => Sys2Proof.Machine.execFetchExcerpt tag body s
  | .unknownKind kind tag body => Sys2Proof.Machine.execUnknownKind kind tag body s
  | .trunkBit trunk bit => Sys2Proof.Machine.execTrunkBit trunk bit s
  | .moveToWaiting trunk => Sys2Proof.Machine.execMoveToWaiting trunk s

end Sys2Proof.Machine
end

