-- ==== Sys2Proof/Machine/Step.lean ====
section
/-! DEFINITION. One step: the command at the front of the queue, or, where none waits, one reference cycle
of the part's own clock. -/

namespace Sys2Proof.Machine

/-- The part's own event that falls due in this instant, the first of `ownEvents` where several do. -/
def State.dueEvent (s : State) : Option Instr := ownEvents.find? fun e => s.dueIn e = some 0

/-- No command waits: a round of the arbiter that is due is granted, or an event of the part's own that is due
is taken, and otherwise one reference cycle passes (notes/assumptions/6.md). -/
def idle (s : State) : Host.Outcome State Fault Refusal :=
  if s.roundDue then .next s.startRound
  else match s.dueEvent with
    | some e => exec e s
    | none => .next (s.elapse 1)

/-- One step. -/
def step (s : State) : Host.Outcome State Fault Refusal :=
  match s.pending with
  | [] => idle s
  | c :: rest => exec c (s.withPending rest)

/-- The state with the command that a word spells put at the front of the queue; unchanged where the word
spells none. -/
def State.withFetchWord (s : State) (nbits w : Nat) : State :=
  match decodeTableWord nbits w with
  | none => s
  | some c => s.withPending (c :: s.pending)

end Sys2Proof.Machine
end

