-- ==== Sys2Proof/WellFormed.lean ====
section
/-! DEFINITION. Which commands a sender can form. The types of `Instr` already keep trunk and region
numbers in range; what is left are the request frames. -/

namespace Sys2Proof

/-- The kind byte names a request of the table in R179. -/
def namesRequest (kind : Byte) : Bool :=
  [0x01, 0x02, 0x10, 0x11, 0x12, 0x13, 0x14, 0x20, 0x21, 0x22, 0x23, 0x24, 0x25, 0x26,
    0x30, 0x31, 0x32, 0x40, 0x41, 0x50, 0x51].contains kind.toNat

/-- A body that a frame can carry: at most 1,152 bytes (R171). -/
def bodyFits (body : List Byte) : Bool :=
  body.length ≤ Config.maxBody

/-- A well-formed command: the body of a request fits a frame, and UNKNOWN_KIND names a kind of
00h–7Fh (R174) that is none of the requests (R179). -/
def Instr.wellFormed : Instr → Bool
  | .powerOnReset _ _ => true
  | .sampleEpoch => true
  | .tickCompletion => true
  | .primingEnd => true
  | .trunkByte _ _ => true
  | .pause _ => true
  | .breakWithinByte _ => true
  | .ppsEdge => true
  | .acquiringTimeout => true
  | .freeRunRollover => true
  | .holdoverEntry => true
  | .holdoverExpiry => true
  | .passStart => true
  | .passEnd => true
  | .deadCountEnd _ => true
  | .readGrant => true
  | .copySlice => true
  | .excerptTake => true
  | .rxByte _ _ => true
  | .gapTimeout => true
  | .replySent => true
  | .status _ body => bodyFits body
  | .reset _ body => bodyFits body
  | .setAcquisition _ body => bodyFits body
  | .setChannel _ body => bodyFits body
  | .channelReport _ body => bodyFits body
  | .setRegion _ body => bodyFits body
  | .setTime _ body => bodyFits body
  | .tablePointer _ body => bodyFits body
  | .tableWrite _ body => bodyFits body
  | .tableRead _ body => bodyFits body
  | .bankSize _ body => bodyFits body
  | .regionMap _ body => bodyFits body
  | .bankCopy _ body => bodyFits body
  | .bankActivate _ body => bodyFits body
  | .setMonitor _ body => bodyFits body
  | .setExcerpt _ body => bodyFits body
  | .setAttention _ body => bodyFits body
  | .start _ body => bodyFits body
  | .stop _ body => bodyFits body
  | .fetchSummary _ body => bodyFits body
  | .fetchExcerpt _ body => bodyFits body
  | .unknownKind kind _ body => bodyFits body && kind.toNat < 0x80 && !namesRequest kind
  | .trunkBit _ _ => true
  | .moveToWaiting _ => true

end Sys2Proof
end

