-- ==== Sys2Proof/Safety.lean ====
section
/-! DEFINITION. The terms of the claims: when a request is executed at once, when an event of the part's
own comes about, and the invariants of a run. -/

namespace Sys2Proof.Machine

/-! ### When a command takes effect -/

/-- The control port is free and nothing of an epoch event is left to be taken: a request frame that
completes now is executed at once and its reply has a place (R174, R175, R177). -/
abbrev State.ready (s : State) : Prop :=
  s.cpt.executing = none ∧ s.cpt.waiting = [] ∧ s.cpt.resetPending = false ∧ s.cpt.transmit.length < 4
    ∧ s.ccu.stage = .none

/-- The event falls due `n` reference cycles from now, none of the part's own falls due before, and the arbiter
has no round to begin in this instant. -/
abbrev State.comesIn (s : State) (e : Instr) (n : Nat) : Prop :=
  s.dueIn e = some n ∧ s.quietFor n = true ∧ s.roundDue = false

/-- The control port when a request frame of this kind and tag has been answered with this body: the
valid frame counted, the reply at the tail of the transmit queue (R174, R176, R177). -/
def ControlPort.replied (c : ControlPort) (kind tag : Byte) (body : List Byte) : ControlPort :=
  { c with
    transmit := c.transmit ++ [{ kind := kind + 0x80, tag := tag, body := body }]
    counters := { c.counters with validFrames := satInc Config.max32 c.counters.validFrames } }

/-- The state in which a request frame that has just completed is executed: the frame is counted. -/
def State.counted (s : State) : State :=
  s.count fun c => { c with validFrames := satInc Config.max32 c.validFrames }

/-- The row of a request. -/
def Request.command (r : Request) (tag : Byte) (body : List Byte) : Instr :=
  match r with
  | .status => .status tag body
  | .reset => .reset tag body
  | .setAcquisition => .setAcquisition tag body
  | .setChannel => .setChannel tag body
  | .channelReport => .channelReport tag body
  | .setRegion => .setRegion tag body
  | .setTime => .setTime tag body
  | .tablePointer => .tablePointer tag body
  | .tableWrite => .tableWrite tag body
  | .tableRead => .tableRead tag body
  | .bankSize => .bankSize tag body
  | .regionMap => .regionMap tag body
  | .bankCopy => .bankCopy tag body
  | .bankActivate => .bankActivate tag body
  | .setMonitor => .setMonitor tag body
  | .setExcerpt => .setExcerpt tag body
  | .setAttention => .setAttention tag body
  | .start => .start tag body
  | .stop => .stop tag body
  | .fetchSummary => .fetchSummary tag body
  | .fetchExcerpt => .fetchExcerpt tag body

/-- Good bytes received one after another, with nothing between them. -/
def State.receives : List Byte → State → Result
  | [], s => .next s
  | b :: bs, s => match exec (.rxByte b true) s with
    | .next u => State.receives bs u
    | .fault f => .fault f
    | .refused f => .refused f

/-! ### Second marks and handovers -/

/-- `new` is `old` after a mark that begins a second of `c` reference cycles with this quality, `old` being
the state of the mark's instant with its transitions made (R42, R45, R58, R146). The epoch in progress is
handed over unless the divider has opened it in this very cycle; the other blocks keep what they hold. -/
def State.beginsSecond (old new : State) (c : Nat) (step : Bool) : Prop :=
  new.tbu.state = old.tbu.state
    ∧ new.tbu.fsInForce = old.tbu.fsSetting ∧ new.tbu.cInUse = c
    ∧ new.tbu.q = c / fsOf old.tbu.fsSetting ∧ new.tbu.r = c % fsOf old.tbu.fsSetting
    ∧ new.tbu.position = 0 ∧ new.tbu.sampleIndex = 0 ∧ new.tbu.smpLeft = 16
    ∧ new.tbu.seconds = (old.tbu.pendingSeconds.getD ((old.tbu.seconds + 1) % 2 ^ 32))
    ∧ new.tbu.pendingSeconds = none
    ∧ new.tbu.label = { seconds := new.tbu.seconds, index := 0, quality := old.tbu.state,
                        step := step || old.tbu.pendingSeconds.isSome }
    ∧ new.tbu.counter = old.tbu.counter ∧ new.tbu.cRef = old.tbu.cRef
    ∧ new.tbu.lockStreak = old.tbu.lockStreak ∧ new.tbu.missed = old.tbu.missed
    ∧ new.tbu.holdoverLimit = old.tbu.holdoverLimit ∧ new.tbu.fsSetting = old.tbu.fsSetting
    ∧ new.tbu.ppsEdges = old.tbu.ppsEdges ∧ new.tbu.rejects = old.tbu.rejects
    ∧ new.tbu.outliers = old.tbu.outliers ∧ new.tbu.locks = old.tbu.locks
    ∧ new.tbu.holdovers = old.tbu.holdovers
    ∧ new.exu = { old.exu with
        allowanceInForce := old.exu.allowanceSetting, allowanceLeft := old.exu.allowanceSetting }
    ∧ new.ccu = (if old.tbu.justOpened then old.ccu else old.handover.ccu)
    ∧ new.trx = (if old.tbu.justOpened then old.trx else old.handover.trx)
    ∧ new.pending = old.pending ∧ new.tts = old.tts ∧ new.stk = old.stk ∧ new.evb = old.evb
    ∧ new.rpq = old.rpq ∧ new.cpt = old.cpt ∧ new.mdc = old.mdc

/-- The byte in progress with one more bit below the bits already taken (R2). -/
def Trunk.shifted (t : Trunk) (bit : Bool) : Byte := 2 * t.byteInProgress + (if bit then 1 else 0)

/-- The slot of a trunk frame is complete at the handover: the frame is whole, or 3 × i + 5 bytes of it have
arrived (R8 and the text before R2). -/
def Trunk.slotComplete (t : Trunk) (i : Nat) : Prop :=
  t.state = .complete ∨ (t.state = .assembling ∧ 3 * i + 5 ≤ t.byteCount)

/-- The 24-bit value of slot `i` of the frame (R8). -/
def Trunk.slotValue (t : Trunk) (i : Nat) : Int :=
  sample24 (t.frame.getD (3 * i + 1) 0) (t.frame.getD (3 * i + 2) 0) (t.frame.getD (3 * i + 3) 0)

/-- The clip flag of slot `i` in the status byte (R9). -/
def Trunk.slotClip (t : Trunk) (i : Nat) : Bool := (t.frame.getD 0 0).getLsbD i

/-- The trunk of channel `k`: trunk k div 8 (01_..., opening). -/
def State.trunkOf (s : State) (k : Fin 48) : Trunk := s.trx[(⟨k.val / 8, by omega⟩ : Fin 6)]

/-! ### Reading a bank -/

/-- The reply body to a TABLE READ whose delays are taken now (R68): what identifies the read, the region of
each node touched, and the delays; a bank holds 4096 × 48 = 196,608 delays, and the walk goes round. -/
def TableStore.contents (t : TableStore) (r : ReadRequest) : List Byte :=
  [0x00, r.bank.code, flag (r.bank = t.active)] ++ le 2 (t.bank r.bank).count ++ le 2 r.node
    ++ [byte r.channel] ++ le 2 r.count
    ++ (List.range ((r.channel + r.count - 1) / 48 + 1)).map (fun i =>
        byte ((t.bank r.bank).region ((r.node + i) % 4096)).val)
    ++ (List.range r.count).map fun i =>
        (t.bank r.bank).delay ((48 * r.node + r.channel + i) % 196608 / 48) ((r.channel + i) % 48)

/-- The segments kept of an ordered list at one width: the longest beginning that fits a limit (R148). -/
def keepsUpTo (w : Width) (limit : Nat) (gs kept : List Segment) : Prop :=
  ∃ k, k ≤ gs.length ∧ kept = gs.take k ∧ totalSize w kept ≤ limit
    ∧ (k < gs.length → limit < totalSize w (gs.take (k + 1)))

/-! ### Invariants -/

/-- A channel's rings in canonical form. -/
abbrev Channel.ringsWf (c : Channel) : Prop :=
  Memory.wf RawEntry.cleared c.rawRing ∧ Memory.wf CfEntry.cleared c.cfRing

/-- A bank's storage in canonical form. -/
abbrev Bank.storageWf (b : Bank) : Prop := Memory.wf 255 b.delays ∧ Memory.wf 0 b.regions

/-- Every addressed storage of the part in canonical form. -/
abbrev State.storageWf (s : State) : Prop :=
  (∀ k : Fin 48, s.ccu.channels[k].ringsWf) ∧ Memory.wf Label.cleared s.ccu.labelRing
    ∧ s.tts.bankA.storageWf ∧ s.tts.bankB.storageWf

/-- The reference counter within what its state lets it reach (R41). -/
def Timebase.counterInBounds (t : Timebase) : Prop :=
  match t.state with
  | .free => t.counter ≤ t.position ∧ t.counter ≤ t.cInUse
  | .acquiring => t.counter ≤ Config.windowHigh ∧ t.lockStreak ≤ 3
  | .locked | .holdover => t.counter ≤ t.cRef + Config.halfWindow

/-- The timebase within its windows and on its schedule (R41, R42, R48, R51, R54, R56). -/
def Timebase.inBounds (t : Timebase) : Prop :=
  (Config.windowLow ≤ t.cRef ∧ t.cRef ≤ Config.windowHigh)
    ∧ (Config.windowLow ≤ t.cInUse ∧ t.cInUse ≤ Config.windowHigh)
    ∧ t.q = t.cInUse / fsOf t.fsInForce ∧ t.r = t.cInUse % fsOf t.fsInForce
    ∧ t.sampleIndex < fsOf t.fsInForce
    ∧ (t.sampleIndex + 1 < fsOf t.fsInForce → t.position ≤ t.issueAt (t.sampleIndex + 1))
    ∧ t.issueAt t.sampleIndex ≤ t.position
    ∧ t.lockStreak ≤ 4 ∧ t.missed ≤ 3600 ∧ 1 ≤ t.holdoverLimit ∧ t.holdoverLimit ≤ 3600
    ∧ t.counterInBounds

/-- The label in progress names the index of its epoch, and in the cycle in which the epoch is opened its quality
is the state of the timebase (R58). -/
def Timebase.labelInOrder (t : Timebase) : Prop :=
  t.label.index = t.sampleIndex ∧ (t.justOpened = true → t.label.quality = t.state)

/-- The active table has a node whenever the part runs, a swap that is pending brings in a table that has
one, and nothing of an epoch event is left outside a run (R64, R72, R75). -/
abbrev State.tableInService (s : State) : Prop :=
  (s.mode ≠ .standby → 1 ≤ s.tts.activeBank.count)
    ∧ (s.tts.swapPending = true → 1 ≤ s.tts.shadowBank.count ∧ s.tts.copy = none)
    ∧ (s.ccu.stage ≠ .none → s.mode ≠ .standby)

/-- Each origin is one greater than the one before it. -/
def consecutive : List Nat → Prop
  | [] => True
  | [_] => True
  | a :: b :: rest => b = a + 1 ∧ consecutive (b :: rest)

/-- What is left of an epoch event, if anything, belongs to the epoch opened in this very cycle. -/
abbrev State.stageOfThisCycle (s : State) : Prop :=
  s.ccu.stage ≠ .none → s.mode ≠ .standby ∧ s.tbu.justOpened = true

/-- The run's tick count, countdown and origin queue agree (R85, R86, R161). -/
def State.runInOrder (s : State) : Prop :=
  s.stk.origins.length ≤ 4 ∧ consecutive s.stk.origins
    ∧ (∀ o, s.stk.origins.getLast? = some o → o + 241 = s.ccu.tickCount)
    ∧ (s.mode ≠ .listening → s.stk.origins = [])
    ∧ (s.mode = .listening → 256 ≤ s.ccu.tickCount)
    ∧ (s.mode = .priming → s.ccu.tickCount + s.mdc.countdown = primingCount s.ccu.ltaShift)
    ∧ (s.ccu.stage = .primingEnd → s.mode = .priming ∧ s.mdc.countdown = 0)
    ∧ (s.mode = .priming → s.mdc.countdown = 0 → s.ccu.stage = .primingEnd)
    ∧ s.stageOfThisCycle ∧ s.tbu.inBounds

/-- A region whose enabled in force is no is IDLE (R115). -/
abbrev Builder.offIsIdle (b : Builder) : Prop :=
  ∀ r : Fin 16, b.regions[r].inForce = false → b.regions[r].slot = .idle

/-- The head offset lies inside the head excerpt, and is 0 where none waits (R185, R186). -/
def Reports.headInside (r : Reports) : Bool :=
  match r.excerpts with
  | [] => r.headOffset == 0
  | e :: _ => r.headOffset < e.bytes.length

/-- The queues of reports and of the control port within their sizes, ATTN at its level, the allowance
within the one in force, and no time counted on a reply where none is sent (R135, R146, R174, R177, R183, R185, R187). -/
abbrev State.withinCapacity (s : State) : Prop :=
  s.rpq.summaries.length ≤ 64 ∧ s.rpq.attn = s.rpq.attnLevel
    ∧ s.rpq.bytesHeld ≤ 65536 ∧ s.rpq.headInside = true
    ∧ (∀ e ∈ s.rpq.excerpts, 32 ≤ e.bytes.length)
    ∧ (1 ≤ s.rpq.threshold ∧ s.rpq.threshold ≤ 64)
    ∧ s.exu.jobs.length ≤ 4
    ∧ s.exu.allowanceLeft ≤ s.exu.allowanceInForce
    ∧ s.cpt.transmit.length ≤ 4 ∧ s.cpt.backlog ≤ 3
    ∧ (s.cpt.transmit = [] → s.cpt.sentFor = 0)

end Sys2Proof.Machine
end

