-- ==== Sys2Proof/Certificates/Slice0/Obligations.lean ====
section
/-! DEFINITION. The statements for the provers. Each is a statement about the machine, in the terms of
Sys2Proof/Safety.lean; OBLIGATIONS.json says which rules or sections of spec/ each comes from, and the
docstrings name the log entries of what is the model's choice. -/

section
open Sys2Proof Sys2Proof.Machine

/-! ### The machine -/

/-- One step runs the command at the front of the queue on the state with the rest of the queue
(notes/assumptions/1.md). -/
def Obligations.StepRunsTheFrontCommand : Prop :=
  ∀ (c : Instr) (rest : List Instr) (s : State), s.pending = c :: rest →
    step s = exec c (s.withPending rest)

/-- The model's choice (notes/assumptions/6.md): with no command waiting a round of the arbiter that is due
begins, and where none is, the first of the part's own events that are due is taken; where none of these is
due either, one reference cycle passes, and in it the reference counter, the second position and the gap
timer count 1, the reply being sent 1 and the engine and the arbiter two engine cycles. -/
def Obligations.EmptyQueueLetsTimePass : Prop :=
  ∀ s : State, s.pending = [] →
    (s.roundDue = true → step s = .next s.startRound)
    ∧ (∀ e, s.roundDue = false → s.dueEvent = some e → step s = exec e s)
    ∧ (s.roundDue = false → s.dueEvent = none → ∃ t, step s = .next t
      ∧ t.tbu = { s.tbu with
          counter := s.tbu.counter + 1, position := s.tbu.position + 1, smpLeft := s.tbu.smpLeft - 1 }
      ∧ t.stk = { s.stk with pass := s.stk.pass.map fun p => { p with cycles := p.cycles + 2 } }
      ∧ t.tts = { s.tts with
          round := s.tts.round.map fun r => { r with cyclesLeft := r.cyclesLeft - 2 } }
      ∧ (s.cpt.receiver = .hunting → t.cpt = { s.cpt with
          sentFor := if s.cpt.transmit = [] then s.cpt.sentFor else s.cpt.sentFor + 1 })
      ∧ (∀ f, s.cpt.receiver = .inFrame f → t.cpt = { s.cpt with
          receiver := .inFrame { f with gap := f.gap + 1 },
          sentFor := if s.cpt.transmit = [] then s.cpt.sentFor else s.cpt.sentFor + 1 })
      ∧ t.pending = s.pending ∧ t.trx = s.trx ∧ t.ccu = s.ccu ∧ t.evb = s.evb ∧ t.exu = s.exu
      ∧ t.rpq = s.rpq ∧ t.mdc = s.mdc)

/-- No command stops the part (notes/assumptions/30.md), and none touches the commands that wait; an event of
the part's own that is not scheduled, or before which another falls due, does not come about
(notes/assumptions/4.md), and finds a round of the arbiter that is due granted (notes/assumptions/15.md). -/
def Obligations.EveryCommandCompletesAndKeepsTheQueue : Prop :=
  ∀ (c : Instr) (s : State),
    (∃ t, exec c s = .next t ∧ t.pending = s.pending)
    ∧ (c ∈ ownEvents ∨ (∃ r, c = .deadCountEnd r) →
      (s.roundDue = false → (∀ n, ¬ s.comesIn c n) → exec c s = .next s)
      ∧ (s.roundDue = true → exec c s = exec c s.startRound ∧ s.startRound.roundDue = false))

/-- What power-on reset leaves in every block, from any state. That the FV pins and the queue of commands
are not the part's is the model's choice (notes/assumptions/25.md); index 0 is issued without a handover
(notes/assumptions/11.md). -/
def Obligations.PowerOnResetRestoresTheStatedValues : Prop :=
  ∀ (rate1 rate0 : Bool) (s : State), ∃ t, exec (.powerOnReset rate1 rate0) s = .next t
    ∧ t.pending = s.pending
    ∧ t.mdc = { mode := .standby, countdown := 0 }
    ∧ (∀ i : Fin 6, t.trx[i] =
        { fv := s.trx[i].fv, state := .arming, byteCount := 0, bitCount := 0,
          byteInProgress := 0, frame := [], faults := 0, breaks := 0 })
    ∧ (∀ k : Fin 48, let c := t.ccu.channels[k]
        c.record =
          { enabled := false, member := false, gain := 0, weight := 1, trigger := 48,
            freeze := 64, noise := 16, staleLimit := 8, recovery := 64 }
        ∧ c.state = .disabled ∧ c.heldRun = 0 ∧ c.goodRun = 0 ∧ c.last = 0
        ∧ c.heldCount = 0 ∧ c.clipCount = 0 ∧ c.saturationCount = 0 ∧ c.staleCount = 0
        ∧ (∀ i, Memory.read .cleared c.rawRing i = { value := 0, held := true, clip := false })
        ∧ c.envelopeSum = 0 ∧ c.heldInTick = false ∧ c.liveThroughout = true ∧ c.sta = 0 ∧ c.lta = 0
        ∧ (∀ i, Memory.read .cleared c.cfRing i = { value := 0, valid := false }))
    ∧ t.ccu.openEpoch = none ∧ t.ccu.newestEpoch = none ∧ t.ccu.tickCount = 0 ∧ t.ccu.stage = .none
    ∧ t.ccu.tickLabel = { seconds := 0, index := 0, quality := .free, step := false }
    ∧ (∀ i, Memory.read .cleared t.ccu.labelRing i
        = { seconds := 0, index := 0, quality := .free, step := false })
    ∧ t.ccu.decimation = 2 ∧ t.ccu.staShift = 3 ∧ t.ccu.ltaShift = 9
    ∧ t.tbu =
      { counter := 0, state := .free, cRef := 16384000, lockStreak := 0, missed := 0,
        holdoverLimit := 600, seconds := 0, pendingSeconds := none, fsSetting := 2, fsInForce := 2,
        cInUse := 16384000, q := 8192, r := 0, position := 0, sampleIndex := 0,
        label := { seconds := 0, index := 0, quality := .free, step := false }, smpLeft := 16,
        ppsEdges := 0, rejects := 0, outliers := 0, locks := 0, holdovers := 0 }
    ∧ (∀ w n k, (t.tts.bank w).delay n k = 255 ∧ (t.tts.bank w).region n = 0 ∧ (t.tts.bank w).count = 0)
    ∧ t.tts.active = .a ∧ t.tts.pointer = { node := 0, channel := 0, mode := .advance }
    ∧ t.tts.swapPending = false ∧ t.tts.copy = none ∧ t.tts.waitingRead = none ∧ t.tts.round = none
    ∧ t.stk.origins = [] ∧ t.stk.pass = none ∧ t.stk.skippedSince = 0 ∧ t.stk.skippedTotal = 0
    ∧ t.stk.passCount = 0 ∧ t.stk.tapEnabled = false ∧ t.stk.tapNode = 0 ∧ t.stk.tapSkip = 0
    ∧ t.stk.countdown = 0 ∧ t.stk.block.values = [] ∧ t.stk.block.gap = false ∧ t.stk.lostBlocks = 0
    ∧ (∀ r : Fin 16, t.evb.regions[r] =
        { record :=
            { enabled := false, declareLevel := 40, coincidence := 4, minWeight := 4,
              release := 25, maxSpan := 500, deadTime := 50 },
          inForce := false, slot := .idle })
    ∧ t.evb.eventCounter = 1 ∧ t.evb.lostBefore = 0 ∧ t.evb.lostTotal = 0
    ∧ t.exu =
      { jobs := [], pre := 400, post := 1600, mode := .trim, allowanceSetting := 32768,
        allowanceInForce := 32768, allowanceLeft := 32768, excerptCount := 0, trimmedCount := 0,
        coarsenedCount := 0, discardedCount := 0 }
    ∧ t.rpq = { summaries := [], excerpts := [], headOffset := 0, threshold := 1, attn := false }
    ∧ t.cpt.txd = true
    ∧ t.cpt =
      { lineRate := (match rate1, rate0 with
          | false, false => .baud115200
          | false, true => .baud460800
          | true, false => .baud921600
          | true, true => .baud3000000),
        receiver := .hunting, executing := none, waiting := [], transmit := [], sentFor := 0,
        resetPending := false,
        counters :=
          { huntDiscards := 0, lineErrors := 0, lengthDrops := 0, gapDrops := 0, checkDrops := 0,
            kindDrops := 0, validFrames := 0, busys := 0, overflowDrops := 0 } }

/-- The state after reset meets every invariant that a step is stated to keep. The straps' level in it is
the model's choice (notes/assumptions/3.md). -/
def Obligations.ResetMeetsTheInvariants : Prop :=
  State.reset.storageWf ∧ State.reset.tbu.inBounds ∧ State.reset.tbu.labelInOrder ∧ State.reset.tableInService
    ∧ State.reset.runInOrder ∧ State.reset.evb.offIsIdle ∧ State.reset.withinCapacity
    ∧ Sys2Proof.core.reset = State.reset

/-! ### The trunk receivers -/

/-- A rising edge of BCK with FV high (R2, R4, R5): one bit appended, most significant bit first; the eighth
bit hands the byte to the marker check in WAITING and to the frame in ASSEMBLING; in ARMING, COMPLETE and
REJECTED no bit is taken. -/
def Obligations.TrunkBitIsTaken : Prop :=
  ∀ (s : State) (i : Fin 6) (bit : Bool),
    (s.trx[i].state = .arming ∨ s.trx[i].state = .complete ∨ s.trx[i].state = .rejected →
      exec (.trunkBit i bit) s = .next (s.onTrunk i fun t => { t with fv := true }))
    ∧ (s.trx[i].state = .waiting ∨ s.trx[i].state = .assembling → s.trx[i].bitCount < 7 →
      exec (.trunkBit i bit) s = .next (s.onTrunk i fun t =>
        { t with fv := true, bitCount := t.bitCount + 1, byteInProgress := t.shifted bit }))
    ∧ (s.trx[i].state = .waiting → s.trx[i].bitCount = 7 →
      exec (.trunkBit i bit) s = .next (s.onTrunk i fun t =>
        if t.shifted bit = 0xB4 then
          { t with fv := true, bitCount := 0, byteInProgress := 0, byteCount := 1, state := .assembling }
        else
          { t with fv := true, bitCount := 0, byteInProgress := 0, state := .rejected,
                   faults := min 4294967295 (t.faults + 1) }))
    ∧ (s.trx[i].state = .assembling → s.trx[i].bitCount = 7 →
      exec (.trunkBit i bit) s = .next (s.onTrunk i fun t =>
        { t with fv := true, bitCount := 0, byteInProgress := 0, frame := t.frame ++ [t.shifted bit],
                 byteCount := t.byteCount + 1,
                 state := if t.byteCount + 1 = 26 then .complete else .assembling }))

/-- The eight bits of one byte, begun between bytes (R2, R4, R5): the first byte of the epoch is checked
against the marker, a later one is stored, the 26th completes the frame, and every other trunk is as it
was. -/
def Obligations.TrunkByteIsCheckedOrStored : Prop :=
  ∀ (s : State) (i : Fin 6) (b : Byte), s.trx[i].bitCount = 0 →
    (s.trx[i].state = .waiting → b = 0xB4 →
      exec (.trunkByte i b) s = .next (s.onTrunk i fun t =>
        { t with fv := true, byteInProgress := 0, byteCount := 1, state := .assembling }))
    ∧ (s.trx[i].state = .waiting → b ≠ 0xB4 →
      exec (.trunkByte i b) s = .next (s.onTrunk i fun t =>
        { t with fv := true, byteInProgress := 0, state := .rejected,
                 faults := min 4294967295 (t.faults + 1) }))
    ∧ (s.trx[i].state = .assembling →
      exec (.trunkByte i b) s = .next (s.onTrunk i fun t =>
        { t with fv := true, byteInProgress := 0, frame := t.frame ++ [b], byteCount := t.byteCount + 1,
                 state := if t.byteCount + 1 = 26 then .complete else .assembling }))
    ∧ (s.trx[i].state = .arming ∨ s.trx[i].state = .complete ∨ s.trx[i].state = .rejected →
      exec (.trunkByte i b) s = .next (s.onTrunk i fun t => { t with fv := true }))
    ∧ (∀ u, exec (.trunkByte i b) s = .next u → ∀ j : Fin 6, j ≠ i → u.trx[j] = s.trx[j])

/-- The fall of FV (R6, R7) keeps the byte count and the whole bytes taken, and drops the bits of an
incomplete byte; a PAUSE that has ended leaves FV high, and takes no bit; an edge of BCK with FV low (R2, R3) moves a receiver out of ARMING and has no other
effect; where FV was last seen high it has fallen since, with the effect of its fall
(notes/assumptions/2.md). -/
def Obligations.FallOfFvKeepsWholeBytes : Prop :=
  ∀ (s : State) (i : Fin 6),
    (s.trx[i].state = .waiting ∨ s.trx[i].state = .assembling →
      (∀ ended : Bool, exec (.pause ⟨i, ended⟩) s
          = .next (s.onTrunk i fun t => { t with fv := ended, bitCount := 0, byteInProgress := 0 }))
      ∧ exec (.breakWithinByte i) s
          = .next (s.onTrunk i fun t => { t with fv := false, bitCount := 0, byteInProgress := 0 }))
    ∧ (s.trx[i].state = .arming ∨ s.trx[i].state = .complete ∨ s.trx[i].state = .rejected →
      (∀ ended : Bool, exec (.pause ⟨i, ended⟩) s = .next (s.onTrunk i fun t => { t with fv := ended }))
      ∧ exec (.breakWithinByte i) s = .next (s.onTrunk i fun t => { t with fv := false }))
    ∧ (s.trx[i].state = .arming →
      exec (.moveToWaiting i) s = .next (s.onTrunk i fun t => { t with fv := false, state := .waiting }))
    ∧ (s.trx[i].state ≠ .arming → s.trx[i].fv = false → exec (.moveToWaiting i) s = .next s)
    ∧ (s.trx[i].state ≠ .arming → s.trx[i].fv = true → exec (.moveToWaiting i) s = exec (.pause ⟨i, false⟩) s)

/-! ### The epoch event -/

/-- SAMPLE_EPOCH (R1, R3, R8, R42, R58): at its position of the schedule the next index is issued, SMP is
pulsed, the label of the new epoch is formed, and every trunk receiver is made ready for it, a frame that
the epoch cut off counted as a break. What the conditioner does is stated by the three statements that
follow. That the level of FV is the one the trunk commands have left is the model's choice
(notes/assumptions/2.md), and so is that the row lets time pass to the instant at which the index falls due (notes/assumptions/4.md). -/
def Obligations.SampleEpochIssuesTheNextIndex : Prop :=
  ∀ (s : State) (n : Nat), s.comesIn .sampleEpoch n →
    s.tbu.position ≤ (s.tbu.sampleIndex + 1) * s.tbu.q + min (s.tbu.sampleIndex + 1) s.tbu.r →
    ∃ t, exec .sampleEpoch s = .next t
      ∧ s.tbu.sampleIndex + 1 < fsOf s.tbu.fsInForce
      ∧ t.tbu = { s.tbu with
          counter := s.tbu.counter + n,
          position := (s.tbu.sampleIndex + 1) * s.tbu.q + min (s.tbu.sampleIndex + 1) s.tbu.r,
          sampleIndex := s.tbu.sampleIndex + 1, smpLeft := 16,
          label :=
            { seconds := s.tbu.seconds, index := s.tbu.sampleIndex + 1, quality := s.tbu.state,
              step := false } }
      ∧ (∀ i : Fin 6, t.trx[i] = { s.trx[i] with
          state := if s.trx[i].fv then .arming else .waiting, byteCount := 0, bitCount := 0,
          byteInProgress := 0, frame := [],
          breaks := if s.trx[i].state = .assembling then min 4294967295 (s.trx[i].breaks + 1)
            else s.trx[i].breaks })
      ∧ t.stk = s.stk.elapse n ∧ t.tts = s.tts.elapse n ∧ t.cpt = s.cpt.elapse n
      ∧ t.pending = s.pending ∧ t.evb = s.evb ∧ t.exu = s.exu ∧ t.rpq = s.rpq ∧ t.mdc = s.mdc

/-- The handover of the numbered epoch E in PRIMING and LISTENING (R8, R9, R11, R12, R13, R17): a complete slot
gives a new sample, calibrated and stored with its clip mark; any other slot is held and repeats the last
calibrated sample; every other entry of the ring is as it was. -/
def Obligations.HandoverWritesEverySample : Prop :=
  ∀ (s : State) (n epoch : Nat), s.comesIn .sampleEpoch n → s.mode ≠ .standby →
    s.ccu.openEpoch = some epoch → s.storageWf →
    ∃ t, exec .sampleEpoch s = .next t
      ∧ t.ccu.newestEpoch = some epoch ∧ t.ccu.openEpoch = some (epoch + 1)
      ∧ ∀ (k : Fin 48) (old new : Channel) (x : Int) (clip : Bool), old = s.ccu.channels[k] →
        new = t.ccu.channels[k] → x = (s.trunkOf k).slotValue (k.val % 8) →
        clip = (s.trunkOf k).slotClip (k.val % 8) →
        ((s.trunkOf k).slotComplete (k.val % 8) →
          new.last = calibrate old.record.gain x
          ∧ Memory.read .cleared new.rawRing (epoch % 4096)
            = { value := calibrate old.record.gain x, held := false, clip := clip }
          ∧ new.heldCount = old.heldCount
          ∧ new.clipCount = (if old.record.enabled = true ∧ clip = true
              then min 4294967295 (old.clipCount + 1) else old.clipCount)
          ∧ new.saturationCount = (if old.record.enabled = true ∧ calibrateSaturates old.record.gain x = true
              then min 4294967295 (old.saturationCount + 1) else old.saturationCount))
        ∧ (¬ (s.trunkOf k).slotComplete (k.val % 8) →
          new.last = old.last
          ∧ Memory.read .cleared new.rawRing (epoch % 4096)
            = { value := old.last, held := true, clip := false }
          ∧ new.heldCount = (if old.record.enabled = true then min 4294967295 (old.heldCount + 1)
              else old.heldCount)
          ∧ new.clipCount = old.clipCount ∧ new.saturationCount = old.saturationCount)
        ∧ (∀ i, i ≠ epoch % 4096 →
          Memory.read .cleared new.rawRing i = Memory.read .cleared old.rawRing i)
        ∧ new.record = old.record ∧ new.cfRing = old.cfRing ∧ new.sta = old.sta ∧ new.lta = old.lta

/-- The state steps of a channel at a handover in PRIMING and LISTENING (R15), a change of the record's enabled
field applied first (R16); and the handovers of STANDBY and of the unnumbered epoch, which apply that
change alone (R13, R160). That the good-run count keeps its value in LIVE, at the step from LIVE to STALE and
in STALE, where R15 names none, is the model's choice (notes/assumptions/18.md). -/
def Obligations.HandoverStepsTheChannelState : Prop :=
  ∀ (s : State) (n : Nat), s.comesIn .sampleEpoch n → ∃ t, exec .sampleEpoch s = .next t
    ∧ ∀ (k : Fin 48) (old new : Channel), old = s.ccu.channels[k] → new = t.ccu.channels[k] →
      (s.mode = .standby ∨ s.ccu.openEpoch = none →
        new = (if old.state = .disabled ∧ old.record.enabled = true then
            { old with state := .recovering, goodRun := 0, heldRun := 0 }
          else if old.state ≠ .disabled ∧ old.record.enabled = false then
            { old with state := .disabled, goodRun := 0, heldRun := 0 }
          else old)
        ∧ t.ccu.newestEpoch = s.ccu.newestEpoch ∧ t.ccu.tickCount = s.ccu.tickCount)
      ∧ (s.mode ≠ .standby → s.ccu.openEpoch ≠ none → old.record.enabled = false →
        new.state = .disabled ∧ new.staleCount = old.staleCount
        ∧ (old.state ≠ .disabled → new.heldRun = 0 ∧ new.goodRun = 0)
        ∧ (old.state = .disabled → new.heldRun = old.heldRun ∧ new.goodRun = old.goodRun))
      ∧ (s.mode ≠ .standby → s.ccu.openEpoch ≠ none → old.record.enabled = true →
        (s.trunkOf k).slotComplete (k.val % 8) →
        new.heldRun = 0 ∧ new.staleCount = old.staleCount
        ∧ (old.state = .live → new.state = .live ∧ new.goodRun = old.goodRun)
        ∧ (old.state = .stale ∨ old.state = .disabled → new.goodRun = 1
          ∧ new.state = (if old.record.recovery ≤ 1 then .live else .recovering))
        ∧ (old.state = .recovering → new.goodRun = min 255 (old.goodRun + 1)
          ∧ new.state = (if old.record.recovery ≤ min 255 (old.goodRun + 1) then .live else .recovering)))
      ∧ (s.mode ≠ .standby → s.ccu.openEpoch ≠ none → old.record.enabled = true →
        ¬ (s.trunkOf k).slotComplete (k.val % 8) →
        (old.state ≠ .disabled → new.heldRun = min 255 (old.heldRun + 1))
        ∧ (old.state = .live → new.goodRun = old.goodRun
          ∧ (old.record.staleLimit ≤ min 255 (old.heldRun + 1) →
            new.state = .stale ∧ new.staleCount = min 4294967295 (old.staleCount + 1))
          ∧ (¬ old.record.staleLimit ≤ min 255 (old.heldRun + 1) →
            new.state = .live ∧ new.staleCount = old.staleCount))
        ∧ (old.state = .stale → new.state = .stale ∧ new.goodRun = old.goodRun
          ∧ new.staleCount = old.staleCount)
        ∧ (old.state = .recovering ∨ old.state = .disabled → new.state = .stale ∧ new.goodRun = 0
          ∧ new.staleCount = min 4294967295 (old.staleCount + 1))
        ∧ (old.state = .disabled → new.heldRun = 1))

/-- The tick accumulation of a handover in PRIMING and LISTENING (R24, R25): afresh at a tick's first epoch, then
the magnitude of the value written, the held mark and the state after the handover; the label in progress
is that of the first epoch with the step flag of any; and the tick is left to complete in the same event at
its last epoch (R23, notes/assumptions/5.md). -/
def Obligations.HandoverAccumulatesTheTick : Prop :=
  ∀ (s : State) (n epoch d : Nat), s.comesIn .sampleEpoch n → s.mode ≠ .standby →
    s.ccu.openEpoch = some epoch → s.storageWf → d = 2 ^ s.ccu.decimation.val →
    ∃ t, exec .sampleEpoch s = .next t
      ∧ (epoch % d = 0 → t.ccu.tickLabel = s.tbu.label)
      ∧ (epoch % d ≠ 0 →
        t.ccu.tickLabel = { s.ccu.tickLabel with step := s.ccu.tickLabel.step || s.tbu.label.step })
      ∧ (epoch % d = d - 1 → t.ccu.stage = .completion)
      ∧ (epoch % d ≠ d - 1 → t.ccu.stage = s.ccu.stage)
      ∧ ∀ (k : Fin 48) (old new : Channel) (e : RawEntry), old = s.ccu.channels[k] →
        new = t.ccu.channels[k] → e = Memory.read .cleared new.rawRing (epoch % 4096) →
        new.envelopeSum
            = (if epoch % d = 0 then 0 else old.envelopeSum) + min e.value.natAbs 8388607
        ∧ (new.heldInTick = true ↔ (epoch % d ≠ 0 ∧ old.heldInTick = true) ∨ e.held = true)
        ∧ (new.liveThroughout = true ↔
          (epoch % d = 0 ∨ old.liveThroughout = true) ∧ new.state = .live)

/-- Calibration (R11): rounded half up at the gain (2048 + m) / 2048 × 2^−e, saturated to 24 bits, saturation
only at e = 0, and unity gain returns the sample. -/
def Obligations.CalibrationRoundsHalfUpAndSaturates : Prop :=
  ∀ (e m : Nat) (x : Int), e < 32 → m < 2048 → -8388608 ≤ x → x ≤ 8388607 →
    ∃ y : Int, y * 2 ^ (11 + e) ≤ x * (2048 + m) + 2 ^ (10 + e)
      ∧ x * (2048 + m) + 2 ^ (10 + e) < (y + 1) * 2 ^ (11 + e)
      ∧ calibrate (2048 * e + m) x = max (-8388608) (min 8388607 y)
      ∧ (calibrateSaturates (2048 * e + m) x = true ↔ y < -8388608 ∨ 8388607 < y)
      ∧ (calibrateSaturates (2048 * e + m) x = true → e = 0)
      ∧ (e = 0 → m = 0 → calibrate (2048 * e + m) x = x)

/-- A tick completion (R23, R25, R27 to R33): a held tick or a DISABLED channel writes value 0 without the valid
mark and leaves both averages; otherwise STA moves first, c is formed from the new STA and the old LTA, the
LTA moves unless it is frozen, and the entry is valid if the channel was LIVE throughout. -/
def Obligations.TickCompletionFormsEveryEntry : Prop :=
  ∀ s : State, s.ccu.stage = .completion → s.roundDue = false → s.storageWf →
    ∃ t, exec .tickCompletion s = .next t
      ∧ t.ccu.tickCount = s.ccu.tickCount + 1
      ∧ Memory.read .cleared t.ccu.labelRing (s.ccu.tickCount % 256) = s.ccu.tickLabel
      ∧ (∀ i, i ≠ s.ccu.tickCount % 256 →
        Memory.read .cleared t.ccu.labelRing i = Memory.read .cleared s.ccu.labelRing i)
      ∧ ∀ (k : Fin 48) (old new : Channel) (entry : CfEntry) (env : Nat), old = s.ccu.channels[k] →
        new = t.ccu.channels[k] → entry = Memory.read .cleared new.cfRing (s.ccu.tickCount % 256) →
        env = old.envelopeSum / 2 ^ s.ccu.decimation.val * 256 →
        (old.state = .disabled ∨ old.heldInTick = true →
          entry = { value := 0, valid := false } ∧ new.sta = old.sta ∧ new.lta = old.lta)
        ∧ (old.state ≠ .disabled → old.heldInTick = false →
          (new.sta : Int) = old.sta + ((env : Int) - old.sta) / 2 ^ s.ccu.staShift
          ∧ min old.sta env ≤ new.sta ∧ new.sta ≤ max old.sta env
          ∧ entry.value = min 255 (16 * new.sta / max old.lta (max old.record.noise 1 * 256))
          ∧ entry.valid = old.liveThroughout
          ∧ (old.record.freeze = 0 ∨ entry.value < old.record.freeze →
            (new.lta : Int) = old.lta + ((env : Int) - old.lta) / 2 ^ s.ccu.ltaShift)
          ∧ (old.record.freeze ≠ 0 → old.record.freeze ≤ entry.value → new.lta = old.lta))
        ∧ (∀ i, i ≠ s.ccu.tickCount % 256 →
          Memory.read .cleared new.cfRing i = Memory.read .cleared old.cfRing i)
        ∧ new.record = old.record ∧ new.state = old.state ∧ new.rawRing = old.rawRing
        ∧ new.last = old.last

/-- What a tick completion does in each mode of a run (R34, R85, R161): in LISTENING origin t − 240 is appended,
the head discarded and counted where 4 wait; in PRIMING the countdown falls and nothing is appended, until
its end makes the mode LISTENING and appends the run's first origin, max(256, 2^l) − 241. That the end of
priming is a row of its own in the same instant is the model's choice (notes/assumptions/5.md). -/
def Obligations.TickCompletionCountsDownOrAppends : Prop :=
  (∀ s : State, s.ccu.stage = .completion → s.roundDue = false →
    ∃ t, exec .tickCompletion s = .next t
      ∧ (s.mode = .listening → s.stk.origins.length < 4 →
        t.stk = { s.stk with origins := s.stk.origins ++ [s.ccu.tickCount - 240] })
      ∧ (s.mode = .listening → 4 ≤ s.stk.origins.length →
        t.stk = { s.stk with
          origins := s.stk.origins.tail ++ [s.ccu.tickCount - 240],
          skippedSince := min 65535 (s.stk.skippedSince + 1),
          skippedTotal := min 4294967295 (s.stk.skippedTotal + 1) })
      ∧ (s.mode = .listening → t.mdc = s.mdc ∧ t.ccu.stage = .none)
      ∧ (s.mode = .priming → t.stk = s.stk
        ∧ t.mdc = { mode := .priming, countdown := s.mdc.countdown - 1 }
        ∧ t.ccu.stage = (if s.mdc.countdown - 1 = 0 then .primingEnd else .none))
      ∧ t.pending = s.pending ∧ t.trx = s.trx ∧ t.tbu = s.tbu ∧ t.tts = s.tts ∧ t.evb = s.evb
      ∧ t.exu = s.exu ∧ t.rpq = s.rpq ∧ t.cpt = s.cpt)
  ∧ (∀ s : State, s.ccu.stage = .primingEnd → s.roundDue = false → s.runInOrder →
    exec .primingEnd s = .next { s with
      mdc := { mode := .listening, countdown := 0 },
      ccu := { s.ccu with stage := .none },
      stk := { s.stk with origins := [max 256 (2 ^ s.ccu.ltaShift) - 241] } })

/-! ### The timebase -/

/-- PPS edges that are no marks (R46 to R48, R52, R55): every edge is counted; in FREE it starts a measurement;
in ACQUIRING one below the window is rejected and one in it is accepted; in LOCKED and HOLDOVER one below
the window is an outlier. Nothing else of the part changes, but that the label of an epoch opened in this very
cycle shows the state after the edge (R58). -/
def Obligations.PpsEdgeOutsideMarks : Prop :=
  ∀ s : State,
    (s.tbu.state = .free →
      exec .ppsEdge s = .next { s with tbu := { s.tbu with
        ppsEdges := min 4294967295 (s.tbu.ppsEdges + 1), state := .acquiring, lockStreak := 0,
        counter := 0,
        label := { s.tbu.label with
          quality := if s.tbu.position = s.tbu.issueAt s.tbu.sampleIndex then .acquiring
            else s.tbu.label.quality } } })
    ∧ (s.tbu.state = .acquiring → s.tbu.counter < 16382362 →
      exec .ppsEdge s = .next { s with tbu := { s.tbu with
        ppsEdges := min 4294967295 (s.tbu.ppsEdges + 1), lockStreak := 0, counter := 0,
        rejects := min 4294967295 (s.tbu.rejects + 1) } })
    ∧ (s.tbu.state = .acquiring → 16382362 ≤ s.tbu.counter → s.tbu.counter ≤ 16385638 →
      s.tbu.lockStreak < 3 →
      exec .ppsEdge s = .next { s with tbu := { s.tbu with
        ppsEdges := min 4294967295 (s.tbu.ppsEdges + 1), cRef := s.tbu.counter, counter := 0,
        lockStreak := s.tbu.lockStreak + 1 } })
    ∧ (s.tbu.state = .locked ∨ s.tbu.state = .holdover → s.tbu.counter + 1638 < s.tbu.cRef →
      exec .ppsEdge s = .next { s with tbu := { s.tbu with
        ppsEdges := min 4294967295 (s.tbu.ppsEdges + 1),
        outliers := min 4294967295 (s.tbu.outliers + 1) } })

/-- PPS edges that are marks (R50, R51, R55, with R42, R45, R58, R59): the lock mark, the mark of LOCKED, whose
measured interval becomes C_ref within its limit, and the return from HOLDOVER, which keeps C_ref. An edge
in the very cycle in which another mark has begun the second stands outside the statement
(notes/assumptions/14.md). That SMP's 16 cycles start afresh, also where the epoch before was shorter, is the
model's choice (notes/assumptions/33.md), and so is that a mark hands over and refills in one
(notes/assumptions/31.md). -/
def Obligations.PpsMarkBeginsASecond : Prop :=
  ∀ (s : State) (edges : Nat), s.tbu.position ≠ 0 → edges = min 4294967295 (s.tbu.ppsEdges + 1) →
    (s.tbu.state = .acquiring → 16382362 ≤ s.tbu.counter → s.tbu.counter ≤ 16385638 →
      s.tbu.lockStreak = 3 →
      ∃ t, exec .ppsEdge s = .next t
        ∧ State.beginsSecond { s with tbu := { s.tbu with
            ppsEdges := edges, state := .locked, cRef := s.tbu.counter, counter := 0, lockStreak := 4,
            locks := min 4294967295 (s.tbu.locks + 1) } } t s.tbu.counter true)
    ∧ (s.tbu.state = .locked → s.tbu.cRef ≤ s.tbu.counter + 1638 →
      s.tbu.counter ≤ s.tbu.cRef + 1638 →
      ∃ t, exec .ppsEdge s = .next t
        ∧ State.beginsSecond { s with tbu := { s.tbu with
            ppsEdges := edges, cRef := max 16382362 (min 16385638 s.tbu.counter), counter := 0 } } t
            (max 16382362 (min 16385638 s.tbu.counter)) false)
    ∧ (s.tbu.state = .holdover → s.tbu.cRef ≤ s.tbu.counter + 1638 →
      s.tbu.counter ≤ s.tbu.cRef + 1638 →
      ∃ t, exec .ppsEdge s = .next t
        ∧ State.beginsSecond { s with tbu := { s.tbu with
            ppsEdges := edges, state := .locked, counter := 0 } } t s.tbu.cRef true)

/-- The free-run rollover (R43), the ACQUIRING timeout (R49), the entry into HOLDOVER (R53) and the expiry in
HOLDOVER (R54), each n reference cycles from now with nothing of the part's own before it. That the row lets
those cycles pass is the model's choice (notes/assumptions/4.md), and so are that SMP's 16 cycles start afresh at
a mark (notes/assumptions/33.md) and that a mark hands over and refills in one (notes/assumptions/31.md); the
label of an epoch opened in the cycle of the ACQUIRING timeout shows FREE (R58); a mark at position 0
stands outside the statement (notes/assumptions/14.md). -/
def Obligations.TimebaseMarksAndTimeouts : Prop :=
  ∀ (s : State) (n : Nat),
    (s.comesIn .acquiringTimeout n →
      exec .acquiringTimeout s = .next { s.elapse n with tbu := { s.tbu.elapse n with
        state := .free, lockStreak := 0, counter := 0,
        label := { s.tbu.label with
          quality := if s.tbu.position + n = s.tbu.issueAt s.tbu.sampleIndex then .free
            else s.tbu.label.quality } } }
      ∧ (s.tbu.counter ≤ 16385638 → s.tbu.counter + n = 16385638))
    ∧ (s.comesIn .freeRunRollover n → s.tbu.position + n ≠ 0 →
      (∃ t, exec .freeRunRollover s = .next t
        ∧ State.beginsSecond { s.elapse n with tbu := { s.tbu.elapse n with
            counter := if s.tbu.state = .free then 0 else s.tbu.counter + n } } t 16384000 false)
      ∧ (s.tbu.position ≤ s.tbu.cInUse → s.tbu.position + n = s.tbu.cInUse))
    ∧ (s.comesIn .holdoverEntry n → s.tbu.position + n ≠ 0 →
      (∃ t, exec .holdoverEntry s = .next t
        ∧ State.beginsSecond { s.elapse n with tbu := { s.tbu.elapse n with
            state := .holdover, counter := 1638, missed := 1,
            holdovers := min 4294967295 (s.tbu.holdovers + 1) } } t s.tbu.cRef true)
      ∧ (s.tbu.counter ≤ s.tbu.cRef + 1638 → s.tbu.counter + n = s.tbu.cRef + 1638))
    ∧ (s.comesIn .holdoverExpiry n → s.tbu.position + n ≠ 0 → s.tbu.missed < s.tbu.holdoverLimit →
      ∃ t, exec .holdoverExpiry s = .next t
        ∧ State.beginsSecond { s.elapse n with tbu := { s.tbu.elapse n with
            counter := 1638, missed := s.tbu.missed + 1 } } t s.tbu.cRef false)
    ∧ (s.comesIn .holdoverExpiry n → s.tbu.position + n ≠ 0 → s.tbu.holdoverLimit ≤ s.tbu.missed →
      ∃ t, exec .holdoverExpiry s = .next t
        ∧ State.beginsSecond { s.elapse n with tbu := { s.tbu.elapse n with
            state := .free, lockStreak := 0, counter := 0 } } t 16384000 false)

/-- The second schedule (R42): index 0 stands at position 0, the first r intervals are q + 1 cycles and the
others q, and the Fs in force intervals fill the C in use exactly. -/
def Obligations.ScheduleFillsTheSecond : Prop :=
  ∀ t : Timebase, t.q = t.cInUse / fsOf t.fsInForce →
    t.r = t.cInUse - t.q * fsOf t.fsInForce →
    t.r < fsOf t.fsInForce ∧ t.issueAt 0 = 0 ∧ t.issueAt (fsOf t.fsInForce) = t.cInUse
      ∧ ∀ i, t.issueAt (i + 1) = t.issueAt i + (if i < t.r then t.q + 1 else t.q)

/-- Every step keeps the timebase within its windows and on its schedule: C_ref and the C in use within
16,384,000 ± 1638, q and r those of the C in use, the index below the Fs in force, the position before the
next index, and the counter within the bound of its state (R41, R42, R51). The label in progress names its index,
and its quality is the state after the transitions of the instant in which its epoch is opened (R58). -/
def Obligations.TimebaseStaysInItsWindows : Prop :=
  ∀ s t : State, s.tbu.inBounds → step s = .next t →
    t.tbu.inBounds ∧ (s.tbu.labelInOrder → t.tbu.labelInOrder)

/-- SET TIME (R56). -/
def Obligations.SetTimeStoresPendingSecondsAndLimit : Prop :=
  ∀ (s : State) (tag action : Byte) (value limit lim : Nat) (p : Option Nat), s.ready →
    value < 2 ^ 32 → limit < 65536 → lim = max 1 (min 3600 limit) →
    (action = 0 ∧ p = s.tbu.pendingSeconds ∨ action = 1 ∧ p = some value ∨ action = 2 ∧ p = none →
      exec (.setTime tag (action :: (le 4 value ++ le 2 limit))) s = .next { s with
        tbu := { s.tbu with pendingSeconds := p, holdoverLimit := lim },
        cpt := s.cpt.replied 0x14 tag ([0x00, flag p.isSome] ++ le 4 (p.getD 0) ++ le 2 lim
          ++ le 4 s.tbu.seconds ++ [s.tbu.state.code]) })
    ∧ (2 < action.toNat →
      exec (.setTime tag (action :: (le 4 value ++ le 2 limit))) s = .next { s with
        cpt := s.cpt.replied 0x14 tag [0x03] })

/-! ### The travel-time store -/

/-- TABLE POINTER (R65), locked bank or not. -/
def Obligations.TablePointerIsStored : Prop :=
  ∀ (s : State) (tag : Byte) (node channel : Nat), s.ready → node < 65536 → channel < 256 →
    (∀ mode : PointerMode, node < 4096 → channel < 48 →
      exec (.tablePointer tag (le 2 node ++ [byte channel, mode.code])) s = .next { s with
        tts := { s.tts with pointer := { node := node, channel := channel, mode := mode } },
        cpt := s.cpt.replied 0x20 tag ([0x00] ++ le 2 node ++ [byte channel, mode.code]) })
    ∧ (∀ mode : Byte, 4096 ≤ node ∨ 48 ≤ channel ∨ 2 ≤ mode.toNat →
      exec (.tablePointer tag (le 2 node ++ [byte channel, mode])) s = .next { s with
        cpt := s.cpt.replied 0x20 tag [0x03] })

/-- TABLE WRITE (R66, R72): its length is checked first, then the lock, then its bytes; an accepted one stores
them all at the pointer, in the way that StoredDelaysFollowThePointer states. -/
def Obligations.TableWriteStoresOrRefuses : Prop :=
  ∀ (s : State) (tag : Byte) (ds : List Byte), s.ready → ds.length ≤ 1150 →
    (ds.length = 0 ∨ 1024 < ds.length →
      exec (.tableWrite tag (le 2 ds.length ++ ds)) s = .next { s with
        cpt := s.cpt.replied 0x21 tag [0x01] })
    ∧ (1 ≤ ds.length → ds.length ≤ 1024 → s.tts.locked = true →
      exec (.tableWrite tag (le 2 ds.length ++ ds)) s = .next { s with
        cpt := s.cpt.replied 0x21 tag [0x07] })
    ∧ (1 ≤ ds.length → ds.length ≤ 1024 → s.tts.locked = false →
      (∃ d ∈ ds, 240 ≤ d.toNat ∧ d.toNat ≤ 254) →
      exec (.tableWrite tag (le 2 ds.length ++ ds)) s = .next { s with
        cpt := s.cpt.replied 0x21 tag [0x03] })
    ∧ (1 ≤ ds.length → ds.length ≤ 1024 → s.tts.locked = false →
      (∀ d ∈ ds, d.toNat < 240 ∨ d.toNat = 255) →
      ∃ p b, storeDelays ds s.tts.pointer s.tts.shadowBank = (p, b)
        ∧ exec (.tableWrite tag (le 2 ds.length ++ ds)) s = .next { s with
            tts := { s.tts.setShadow b with pointer := p },
            cpt := s.cpt.replied 0x21 tag ([0x00] ++ le 2 p.node ++ [byte p.channel, p.mode.code]) })

/-- The walk of the write pointer (R67). In ADVANCE byte i goes to place (48 × node + channel + i) of the
196,608 of a bank and the pointer stands behind the last; in WRAP the node stays, and each of its channels
keeps the last byte written to it. Every other delay, every region and the count are as they were. -/
def Obligations.StoredDelaysFollowThePointer : Prop :=
  ∀ (ds : List Byte) (p q : Pointer) (b c : Bank), p.node < 4096 → p.channel < 48 → b.storageWf →
    ds.length ≤ 1024 → storeDelays ds p b = (q, c) →
    c.regions = b.regions ∧ c.count = b.count ∧ q.mode = p.mode ∧ q.node < 4096 ∧ q.channel < 48
    ∧ (p.mode = .advance →
      48 * q.node + q.channel = (48 * p.node + p.channel + ds.length) % 196608
      ∧ ∀ n k i, n < 4096 → k < 48 → i < 196608 →
        48 * n + k = (48 * p.node + p.channel + i) % 196608 →
        c.delay n k = if i < ds.length then ds.getD i 0 else b.delay n k)
    ∧ (p.mode = .wrap →
      q.node = p.node ∧ q.channel = (p.channel + ds.length) % 48
      ∧ (∀ i, i < ds.length → ds.length ≤ i + 48 →
        c.delay p.node ((p.channel + i) % 48) = ds.getD i 0)
      ∧ (∀ k, k < 48 → (∀ i, i < ds.length → (p.channel + i) % 48 ≠ k) →
        c.delay p.node k = b.delay p.node k)
      ∧ (∀ n k, n ≠ p.node → k < 48 → c.delay n k = b.delay n k))

/-- BANK SIZE (R70) and REGION MAP (R71) of a bank that is not locked: the shadow bank's count or the regions
of a run of its nodes, and nothing else of either bank. -/
def Obligations.BankSizeAndRegionMapEditTheShadow : Prop :=
  ∀ (s : State) (tag : Byte), s.ready → s.tts.locked = false →
    (∀ n, n ≤ 4096 → exec (.bankSize tag (le 2 n)) s = .next { s with
        tts := s.tts.setShadow { s.tts.shadowBank with count := n },
        cpt := s.cpt.replied 0x23 tag ([0x00] ++ le 2 n) })
    ∧ (∀ n, 4096 < n → n < 65536 → exec (.bankSize tag (le 2 n)) s = .next { s with
        cpt := s.cpt.replied 0x23 tag [0x03] })
    ∧ (∀ first last region, first ≤ last → last < 4096 → region < 16 → s.tts.shadowBank.storageWf →
      ∃ b, exec (.regionMap tag (le 2 first ++ le 2 last ++ [byte region])) s = .next { s with
          tts := s.tts.setShadow b,
          cpt := s.cpt.replied 0x24 tag ([0x00] ++ le 2 (last - first + 1)) }
        ∧ b.delays = s.tts.shadowBank.delays ∧ b.count = s.tts.shadowBank.count
        ∧ ∀ n, (first ≤ n ∧ n ≤ last → (b.region n).val = region)
          ∧ (n < first ∨ last < n → b.region n = s.tts.shadowBank.region n))
    ∧ (∀ first last region, first < 65536 → last < 65536 → region < 256 →
      last < first ∨ 4096 ≤ last ∨ 16 ≤ region →
      exec (.regionMap tag (le 2 first ++ le 2 last ++ [byte region])) s = .next { s with
        cpt := s.cpt.replied 0x24 tag [0x03] })

/-- TABLE READ (R68, R69): taken at once from the shadow bank and in STANDBY; otherwise it waits as the
executing request, and an idle arbiter begins its round at once (R80), with the swap first where one is left
pending (R78, R167). -/
def Obligations.TableReadIsTakenOrWaits : Prop :=
  ∀ (s : State) (tag : Byte) (r : ReadRequest) (body : List Byte), s.ready →
    body = [r.bank.code] ++ le 2 r.node ++ [byte r.channel] ++ le 2 r.count →
    r.node < 65536 → r.channel < 256 → r.count < 65536 →
    (4096 ≤ r.node ∨ 48 ≤ r.channel ∨ r.count = 0 ∨ 1024 < r.count →
      exec (.tableRead tag body) s = .next { s with cpt := s.cpt.replied 0x22 tag [0x03] })
    ∧ (r.node < 4096 → r.channel < 48 → 1 ≤ r.count → r.count ≤ 1024 →
      (r.bank ≠ s.tts.active ∨ s.mode = .standby →
        exec (.tableRead tag body) s = .next { s with
          cpt := s.cpt.replied 0x22 tag (s.tts.contents r) })
      ∧ (r.bank = s.tts.active → s.mode ≠ .standby →
        (s.stk.pass ≠ none ∨ s.stk.origins ≠ [] ∨ s.tts.round ≠ none) →
        exec (.tableRead tag body) s = .next { s with
          tts := { s.tts with waitingRead := some r },
          cpt := { s.counted.cpt with executing := some (.tableRead tag) } })
      ∧ (r.bank = s.tts.active → s.mode ≠ .standby → s.stk.pass = none → s.stk.origins = [] →
        s.tts.round = none → s.tts.swapPending = false →
        exec (.tableRead tag body) s = .next { s with
          tts := { s.tts with
            waitingRead := some r, round := some { grant := .read, cyclesLeft := 128 } },
          cpt := { s.counted.cpt with executing := some (.tableRead tag) } })
      ∧ (r.bank = s.tts.active → s.mode ≠ .standby → s.stk.pass = none → s.stk.origins = [] →
        s.tts.round = none → s.tts.swapPending = true →
        exec (.tableRead tag body) s = .next { s.closeAll .table with
          tts := { s.tts with
            active := s.tts.active.other, swapPending := false, waitingRead := some r,
            round := some { grant := .read, cyclesLeft := 128 } },
          stk := { s.stk with
            block := .empty, countdown := 0,
            tapEnabled := s.stk.tapEnabled && decide (s.stk.tapNode < s.tts.shadowBank.count) },
          cpt := { s.counted.cpt with executing := some (.tableRead tag) } }))
    ∧ (∀ b : Byte, 2 ≤ b.toNat → exec (.tableRead tag (b :: body.tail)) s
        = .next { s with cpt := s.cpt.replied 0x22 tag [0x03] })

/-- The end of the waiting read's grant (R69, R78, R175, R177): the delays are taken from the banks as they
stand, the reply is placed or waits for a place, the round goes on to a copy slice, and with the reply
placed the waiting frames are executed. A swap comes before a read in a round, so none is pending. That the
row lets time pass to the instant is the model's choice (notes/assumptions/4.md), and so are that the read
is taken at the end of its grant (notes/assumptions/34.md) and that the round moves on before the waiting
frames (notes/assumptions/35.md), which follow one another directly (notes/assumptions/39.md). -/
def Obligations.ReadGrantAnswersTheRead : Prop :=
  ∀ (s : State) (n : Nat) (r : ReadRequest) (tag : Byte), s.comesIn .readGrant n →
    s.tts.waitingRead = some r → r.node < 4096 → r.channel < 48 →
    s.cpt.executing = some (.tableRead tag) → s.tts.swapPending = false →
    ∃ u : State, exec .readGrant s = .next u.runWaiting
      ∧ (s.cpt.waiting = [] → u.runWaiting = u)
      ∧ u.tts = { s.tts with
          waitingRead := none,
          round := s.tts.copy.map fun j =>
            { grant := .slice, cyclesLeft := 16 * min 64 (j.toCopy - j.copied) } }
      ∧ (s.cpt.transmit.length < 4 → u.cpt = { s.cpt.elapse n with
          executing := none,
          transmit := s.cpt.transmit ++ [{ kind := 0xA2, tag := tag, body := s.tts.contents r }] })
      ∧ (¬ s.cpt.transmit.length < 4 → u.cpt = { s.cpt.elapse n with
          executing := some (.replyWaiting { kind := 0xA2, tag := tag, body := s.tts.contents r }) })
      ∧ u.tbu = s.tbu.elapse n ∧ u.stk = s.stk.elapse n ∧ u.pending = s.pending ∧ u.trx = s.trx
      ∧ u.ccu = s.ccu ∧ u.evb = s.evb ∧ u.exu = s.exu ∧ u.rpq = s.rpq ∧ u.mdc = s.mdc

/-- BANK COPY (R73) starts a job, at once with its first slice where the arbiter is idle (R80); the end of a
slice (R74, R78, R80) copies up to 64 records, delays and region together, and ends the job with the count
set when all are copied. That the row lets time pass to the slice's end is the model's choice
(notes/assumptions/4.md). -/
def Obligations.BankCopyCopiesBySlices : Prop :=
  (∀ (s : State) (tag : Byte), s.ready → s.tts.locked = false → s.tts.waitingRead = none →
    exec (.bankCopy tag []) s = .next { s with
      tts := { s.tts with
        copy := some { toCopy := s.tts.activeBank.count, copied := 0 },
        round := if s.stk.pass = none ∧ s.stk.origins = [] ∧ s.tts.round = none then
            some { grant := .slice, cyclesLeft := 16 * min 64 s.tts.activeBank.count }
          else s.tts.round },
      cpt := s.cpt.replied 0x25 tag ([0x00] ++ le 2 s.tts.activeBank.count) })
  ∧ (∀ (s : State) (n : Nat) (j : CopyJob), s.comesIn .copySlice n → s.tts.copy = some j →
    s.storageWf → s.tts.swapPending = false → j.copied ≤ j.toCopy →
    ∃ t, exec .copySlice s = .next t
      ∧ t.tts.active = s.tts.active ∧ t.tts.activeBank = s.tts.activeBank
      ∧ t.tts.pointer = s.tts.pointer ∧ t.tts.waitingRead = s.tts.waitingRead
      ∧ t.tts.swapPending = false
      ∧ (∀ m k, k < 48 → (j.copied ≤ m ∧ m < j.copied + 64 ∧ m < j.toCopy →
          t.tts.shadowBank.delay m k = s.tts.activeBank.delay m k
          ∧ t.tts.shadowBank.region m = s.tts.activeBank.region m)
        ∧ (m < j.copied ∨ j.copied + 64 ≤ m ∨ j.toCopy ≤ m →
          t.tts.shadowBank.delay m k = s.tts.shadowBank.delay m k
          ∧ t.tts.shadowBank.region m = s.tts.shadowBank.region m))
      ∧ (j.toCopy ≤ j.copied + 64 → t.tts.copy = none ∧ t.tts.shadowBank.count = j.toCopy)
      ∧ (j.copied + 64 < j.toCopy → t.tts.copy = some { toCopy := j.toCopy, copied := j.copied + 64 }
        ∧ t.tts.shadowBank.count = s.tts.shadowBank.count)
      ∧ t.tts.round = (if s.stk.pass = none ∧ s.stk.origins = [] then
          if s.tts.waitingRead.isSome then some { grant := .read, cyclesLeft := 128 }
          else if j.copied + 64 < j.toCopy then
            some { grant := .slice, cyclesLeft := 16 * min 64 (j.toCopy - (j.copied + 64)) }
          else none
        else none)
      ∧ t.tbu = s.tbu.elapse n ∧ t.stk = s.stk.elapse n ∧ t.cpt = s.cpt.elapse n
      ∧ t.pending = s.pending ∧ t.trx = s.trx ∧ t.ccu = s.ccu ∧ t.evb = s.evb ∧ t.exu = s.exu
      ∧ t.rpq = s.rpq ∧ t.mdc = s.mdc)

/-- BANK ACTIVATE of a bank that is not locked (R75, R76, R77, R80, R106): refused for an empty shadow bank;
in STANDBY, and in a run with the arbiter idle, the swap is made at once with its notice; otherwise it is
left pending. That the reply of the idle arbiter's case shows the flag set is the model's reading of R75
(notes/assumptions/27.md), and that nothing of the instant comes between the closes of the notice is its choice
(notes/assumptions/38.md). -/
def Obligations.BankActivateSwapsOrWaits : Prop :=
  ∀ (s : State) (tag : Byte), s.ready → s.tts.locked = false → s.tts.waitingRead = none →
    (s.tts.shadowBank.count = 0 →
      exec (.bankActivate tag []) s = .next { s with cpt := s.cpt.replied 0x26 tag [0x03] })
    ∧ (s.tts.shadowBank.count ≠ 0 → s.mode ≠ .standby →
      (s.stk.pass ≠ none ∨ s.stk.origins ≠ [] ∨ s.tts.round ≠ none) →
      exec (.bankActivate tag []) s = .next { s with
        tts := { s.tts with swapPending := true },
        cpt := s.cpt.replied 0x26 tag [0x00, s.tts.active.code, 1] })
    ∧ (s.tts.shadowBank.count ≠ 0 →
      s.mode = .standby ∨ s.stk.pass = none ∧ s.stk.origins = [] ∧ s.tts.round = none →
      exec (.bankActivate tag []) s = .next { s.closeAll .table with
        tts := { s.tts with active := s.tts.active.other, swapPending := false },
        stk := { s.stk with
          block := .empty, countdown := 0,
          tapEnabled := s.stk.tapEnabled && decide (s.stk.tapNode < s.tts.shadowBank.count) },
        cpt := s.cpt.replied 0x26 tag
          (if s.mode = .standby then [0x00, s.tts.active.other.code, 0]
           else [0x00, s.tts.active.code, 1]) })

/-- Every step keeps the active table in service: it has a node whenever the part runs, a pending swap brings
in a table that has one, and no copy runs beside a pending swap (R64, R72, R75). -/
def Obligations.TableInServiceIsNeverEmpty : Prop :=
  ∀ s t : State, s.tableInService → step s = .next t → t.tableInService

/-! ### The stacking engine -/

/-- PASS_START (R86 to R89): the head origin is taken with everything that the pass fixes, skipped-since-last
becomes 0; with the engine busy, a round in progress or no origin waiting no pass starts, and the command
leaves the state as it is (notes/assumptions/4.md). -/
def Obligations.PassStartFixesTheContext : Prop :=
  ∀ s : State,
    (s.stk.pass ≠ none ∨ s.tts.round ≠ none ∨ s.stk.origins = [] → s.roundDue = false →
      exec .passStart s = .next s)
    ∧ ∀ (o : Nat) (rest : List Nat), s.stk.pass = none → s.tts.round = none →
      s.stk.origins = o :: rest →
      ∃ p, exec .passStart s = .next { s with
          stk := { s.stk with origins := rest, pass := some p, skippedSince := 0 } }
        ∧ p.origin = o ∧ p.skippedBefore = s.stk.skippedSince
        ∧ p.bank = s.tts.active ∧ p.nodeCount = s.tts.activeBank.count
        ∧ (∀ k : Fin 48, let c := s.ccu.channels[k]
          p.channels[k] =
            { member := c.record.member, inService := decide (c.state ≠ .disabled),
              weight := c.record.weight, trigger := c.record.trigger })
        ∧ (∀ r : Fin 16, let g := s.evb.regions[r]
          p.regions[r] =
            { mayFire := g.inForce, declareLevel := g.record.declareLevel,
              coincidence := g.record.coincidence, minWeight := g.record.minWeight })
        ∧ p.tapEnabled = s.stk.tapEnabled ∧ p.tapNode = s.stk.tapNode ∧ p.tapChanged = false
        ∧ p.cycles = 0

/-- The stack of one node (R91 to R94) over the set u of its used channels. -/
def Obligations.NodeFiresByItsTests : Prop :=
  ∀ (p : PassContext) (ccu : Conditioner) (bank : Bank) (n : Nat) (u : Finset (Fin 48))
    (entry : Fin 48 → CfEntry),
    (∀ k : Fin 48, entry k
      = Memory.read .cleared ccu.channels[k].cfRing ((p.origin + (bank.delay n k).toNat) % 256)) →
    (∀ k : Fin 48, k ∈ u ↔ p.channels[k].member = true ∧ p.channels[k].inService = true
      ∧ bank.delay n k ≠ 255 ∧ (entry k).valid = true) →
    (p.stackOf ccu bank n).wsum = ∑ k ∈ u, p.channels[k].weight
    ∧ (p.stackOf ccu bank n).m
      = (∑ k ∈ u, p.channels[k].weight * (entry k).value) / (∑ k ∈ u, p.channels[k].weight)
    ∧ (p.stackOf ccu bank n).c = (u.filter fun k => p.channels[k].trigger ≤ (entry k).value).card
    ∧ ((p.stackOf ccu bank n).fires = true ↔
      p.regions[bank.region n].mayFire = true ∧ (p.stackOf ccu bank n).wsum ≠ 0
      ∧ p.regions[bank.region n].minWeight ≤ (p.stackOf ccu bank n).wsum
      ∧ p.regions[bank.region n].coincidence ≤ (p.stackOf ccu bank n).c
      ∧ p.regions[bank.region n].declareLevel ≤ (p.stackOf ccu bank n).m)

/-- A region's best after nodes 0 to N − 1 (R95): none exactly if no node of the region fires; otherwise a
firing node of the region with its stack and its 48 delays, and of the firing nodes the one with the
greatest M, among those the greatest C, among those the lowest index. -/
def Obligations.RegionBestIsTheGreatest : Prop :=
  ∀ (p : PassContext) (ccu : Conditioner) (bank : Bank) (count : Nat) (r : Fin 16)
    (fires : Nat → Prop) (best : Option Best),
    (∀ n, fires n ↔ n < count ∧ bank.region n = r ∧ (p.stackOf ccu bank n).fires = true) →
    best = (p.bestsAfter ccu bank count)[r] →
    (best = none ↔ ∀ n, ¬ fires n)
    ∧ ∀ b, best = some b → fires b.node
      ∧ b.m = (p.stackOf ccu bank b.node).m ∧ b.c = (p.stackOf ccu bank b.node).c
      ∧ b.wsum = (p.stackOf ccu bank b.node).wsum
      ∧ (∀ k : Fin 48, b.delays[k] = bank.delay b.node k)
      ∧ ∀ n, fires n → (p.stackOf ccu bank n).m < b.m
        ∨ (p.stackOf ccu bank n).m = b.m ∧ (p.stackOf ccu bank n).c < b.c
        ∨ (p.stackOf ccu bank n).m = b.m ∧ (p.stackOf ccu bank n).c = b.c ∧ b.node ≤ n

/-- The end of a pass (R90, R96, R97, R76 to R79, R106), 8 engine cycles for each node after its start: the
builder takes the result, the tap is offered its value, the pass is counted, and the round begins: the swap
with its notice where one is pending, then the grant of the waiting read or of a copy slice. DEAD_COUNT_END
is the pass end in which the dead count runs out (notes/assumptions/7.md). That the result is formed from
the rings and the bank as they stand at the end is the model's choice (notes/assumptions/12.md), and so are
that the row lets time pass to the end (notes/assumptions/4.md) and that it makes the swap of the round too, with
no take or request between (notes/assumptions/38.md). -/
def Obligations.PassEndDeliversAndCounts : Prop :=
  ∀ (s : State) (n : Nat) (e : Instr) (p : PassContext) (d : PassResult) (v : TapValue) (k : Stack)
    (round : Option Round),
    (e = .passEnd ∨ ∃ r, e = .deadCountEnd r) → s.comesIn e n → s.stk.pass = some p →
    d = { origin := p.origin, skippedBefore := p.skippedBefore, bank := p.bank,
          label := Memory.read .cleared s.ccu.labelRing (p.origin % 256),
          best := p.bestsAfter s.ccu (s.tts.bank p.bank) p.nodeCount } →
    k = p.stackOf s.ccu (s.tts.bank p.bank) p.tapNode →
    v = { m := k.m, valid := decide (k.wsum ≠ 0), fired := k.fires } →
    round = (if s.tts.waitingRead.isSome then some { grant := .read, cyclesLeft := 128 }
      else s.tts.copy.map fun j =>
        { grant := .slice, cyclesLeft := 16 * min 64 (j.toCopy - j.copied) }) →
    ∃ t u : State, exec e s = .next t
      ∧ n = (8 * p.nodeCount - p.cycles + 1) / 2
      ∧ u.evb = (s.takePassResult d).evb ∧ u.exu = (s.takePassResult d).exu
      ∧ u.rpq = ((s.takePassResult d).offerTap p d v).rpq
      ∧ u.stk = { ((s.takePassResult d).offerTap p d v).stk with
          pass := none, passCount := min 4294967295 (s.stk.passCount + 1) }
      ∧ u.tts = s.tts.elapse n ∧ u.tbu = s.tbu.elapse n ∧ u.cpt = s.cpt.elapse n
      ∧ u.pending = s.pending ∧ u.trx = s.trx ∧ u.ccu = s.ccu ∧ u.mdc = s.mdc
      ∧ (s.tts.swapPending = false → t = { u with tts := { s.tts with round := round } })
      ∧ (s.tts.swapPending = true → t = { u.closeAll .table with
          tts := { s.tts with active := s.tts.active.other, swapPending := false, round := round },
          stk := { u.stk with
            block := .empty, countdown := 0,
            tapEnabled := u.stk.tapEnabled && decide (u.stk.tapNode < s.tts.shadowBank.count) } })

/-- The monitor tap at a pass end (R102 to R105): no offer from a pass whose latch is disabled or that was
marked as changed; the gap flag, the countdown, the value kept and the block it starts; and at 32 values
the MONITOR record, offered where the summary queue holds at most 56. -/
def Obligations.MonitorTapKeepsItsValues : Prop :=
  ∀ (s : State) (p : PassContext) (d : PassResult) (v : TapValue) (b c : MonitorBlock),
    b = { s.stk.block with
      gap := s.stk.block.gap || decide (1 ≤ p.skippedBefore ∧ s.stk.block.values ≠ []) } →
    c = (if b.values = [] then
        { b with values := [v], bank := d.bank, firstOrigin := d.origin, firstLabel := d.label }
      else { b with values := b.values ++ [v] }) →
    (p.tapEnabled = false ∨ p.tapChanged = true → s.offerTap p d v = s)
    ∧ (p.tapEnabled = true → p.tapChanged = false →
      (s.stk.countdown ≠ 0 →
        s.offerTap p d v = { s with stk := { s.stk with block := b, countdown := s.stk.countdown - 1 } })
      ∧ (s.stk.countdown = 0 → b.values.length < 31 →
        s.offerTap p d v = { s with stk := { s.stk with block := c, countdown := s.stk.tapSkip } })
      ∧ (s.stk.countdown = 0 → 31 ≤ b.values.length → s.rpq.summaries.length ≤ 56 →
        s.offerTap p d v = { s with
          stk := { s.stk with block := .empty, countdown := s.stk.tapSkip, lostBlocks := 0 },
          rpq := { s.rpq with
            summaries := s.rpq.summaries ++ [.monitor
              { node := s.stk.tapNode, skip := s.stk.tapSkip, lastOrigin := p.origin, block := c,
                lostBlocks := s.stk.lostBlocks }],
            attn := decide (s.rpq.threshold ≤ s.rpq.summaries.length + 1) } })
      ∧ (s.stk.countdown = 0 → 31 ≤ b.values.length → 56 < s.rpq.summaries.length →
        s.offerTap p d v = { s with
          stk := { s.stk with
            block := .empty, countdown := s.stk.tapSkip,
            lostBlocks := min 65535 (s.stk.lostBlocks + 1) } }))

/-- SET MONITOR (R101): bit 0 of its first byte enables the tap; a node that the active bank does not offer is
refused, and an accepted request discards the block and marks a running pass. -/
def Obligations.SetMonitorSetsTheTap : Prop :=
  ∀ (s : State) (tag enable : Byte) (node skip : Nat) (marked : Engine), s.ready → node < 65536 →
    skip < 256 →
    marked = { s.stk with
      block := .empty, countdown := 0, pass := s.stk.pass.map fun p => { p with tapChanged := true } } →
    (enable.getLsbD 0 = false →
      exec (.setMonitor tag ([enable] ++ le 2 node ++ [byte skip])) s = .next { s with
        stk := { marked with tapEnabled := false },
        cpt := s.cpt.replied 0x30 tag
          ([0x00, 0x00] ++ le 2 s.stk.tapNode ++ [byte s.stk.tapSkip]) })
    ∧ (enable.getLsbD 0 = true → node < s.tts.activeBank.count →
      exec (.setMonitor tag ([enable] ++ le 2 node ++ [byte skip])) s = .next { s with
        stk := { marked with tapEnabled := true, tapNode := node, tapSkip := min 63 skip },
        cpt := s.cpt.replied 0x30 tag ([0x00, 0x01] ++ le 2 node ++ [byte (min 63 skip)]) })
    ∧ (enable.getLsbD 0 = true → s.tts.activeBank.count ≤ node →
      exec (.setMonitor tag ([enable] ++ le 2 node ++ [byte skip])) s = .next { s with
        cpt := s.cpt.replied 0x30 tag [0x03] })

/-- Every step keeps the origin queue a run of at most 4 consecutive origins that ends 241 below the tick
count, nothing waiting outside LISTENING, and the priming countdown in step with the tick count
(R85, R86, R161). -/
def Obligations.OriginQueueIsARun : Prop :=
  ∀ s t : State, s.runInOrder → step s = .next t → t.runInOrder

/-! ### The event builder -/

/-- A region at an origin of a pass result (R119 to R123). With a best, an IDLE region whose enabled in force is
yes opens a candidate; an OPEN one advances, its peak replaced whole by a greater M alone, and closes for
LONG at the max span. Without one, at a skipped origin or an evaluated one, an OPEN region counts the
origin, sets the gap flag at a skipped one, and closes for QUIET at the release before LONG. A DEAD region
counts down, best or none, and becomes IDLE at 0. -/
def Obligations.OriginAdvancesTheRegion : Prop :=
  (∀ (s : State) (d : PassResult) (r : Fin 16) (b : Best), d.best[r] = some b →
      (s.evb.regions[r].slot = .idle → s.evb.regions[r].inForce = false →
        s.regionOrigin false d r = s)
      ∧ (∀ c : Candidate, s.evb.regions[r].slot = .idle → s.evb.regions[r].inForce = true →
        c = { openOrigin := d.origin, peakOrigin := d.origin, peakNode := b.node, peakM := b.m,
              peakC := b.c, peakWsum := b.wsum, peakDelays := b.delays, peakLabel := d.label, span := 1,
              firings := 1, quiet := 0, gap := false, step := d.label.step, bank := d.bank } →
        s.regionOrigin false d r = s.onRegion r fun g => { g with slot := .opened c })
      ∧ ∀ k peak k' : Candidate, s.evb.regions[r].slot = .opened k →
        peak = (if k.peakM < b.m then
          { k with
            peakOrigin := d.origin, peakNode := b.node, peakM := b.m, peakC := b.c, peakWsum := b.wsum,
            peakDelays := b.delays, peakLabel := d.label } else k) →
        k' = { peak with
          span := k.span + 1, firings := k.firings + 1, quiet := 0, step := k.step || d.label.step } →
        (s.evb.regions[r].record.maxSpan ≤ k.span + 1 →
          s.regionOrigin false d r = s.closeCandidate r .long k')
        ∧ (k.span + 1 < s.evb.regions[r].record.maxSpan →
          s.regionOrigin false d r = s.onRegion r fun g => { g with slot := .opened k' }))
  ∧ (∀ (s : State) (skipped : Bool) (d : PassResult) (r : Fin 16), skipped = true ∨ d.best[r] = none →
      (s.evb.regions[r].slot = .idle → s.regionOrigin skipped d r = s)
      ∧ ∀ k k' : Candidate, s.evb.regions[r].slot = .opened k →
        k' = { k with span := k.span + 1, quiet := k.quiet + 1, gap := k.gap || skipped } →
        (s.evb.regions[r].record.release ≤ k.quiet + 1 →
          s.regionOrigin skipped d r = s.closeCandidate r .quiet k')
        ∧ (k.quiet + 1 < s.evb.regions[r].record.release →
          s.evb.regions[r].record.maxSpan ≤ k.span + 1 →
          s.regionOrigin skipped d r = s.closeCandidate r .long k')
        ∧ (k.quiet + 1 < s.evb.regions[r].record.release →
          k.span + 1 < s.evb.regions[r].record.maxSpan →
          s.regionOrigin skipped d r = s.onRegion r fun g => { g with slot := .opened k' }))
  ∧ (∀ (s : State) (skipped : Bool) (d : PassResult) (r : Fin 16),
      (s.evb.regions[r].slot = .dead 1 → s.regionOrigin skipped d r = s.onRegion r fun g =>
        { g with slot := .idle, inForce := g.inForce && g.record.enabled })
      ∧ ∀ n, s.evb.regions[r].slot = .dead (n + 2) →
        s.regionOrigin skipped d r = s.onRegion r fun g => { g with slot := .dead (n + 1) })

/-- A pass result is taken origin by origin (R118), and what becomes of a region depends on that region
alone: it takes the skipped origins, then the evaluated one. -/
def Obligations.RegionsTakeOriginsIndependently : Prop :=
  ∀ (s : State) (d : PassResult) (r : Fin 16),
    (s.takePassResult d).evb.regions[r]
      = (State.regionOrigin ((fun u : State => u.regionOrigin true d r)^[d.skippedBefore] s) false d
          r).evb.regions[r]

/-- DEAD_COUNT_END (R123): a dead count of n within the n' + 1 origins of the pass in progress runs out, a
waiting disable takes effect (R115), and only an origin after that can open the region again; a candidate
opened there is closed for TABLE where a swap is pending (R125). That the row is the pass end in which the
count runs out is the model's choice (notes/assumptions/7.md), and so is that it makes the swap of the round too,
with nothing of the instant between (notes/assumptions/38.md). -/
def Obligations.DeadCountRunsOut : Prop :=
  ∀ (s : State) (n count : Nat) (r : Fin 16) (p : PassContext) (g : Region),
    s.comesIn (.deadCountEnd r) n → s.stk.pass = some p → s.evb.regions[r].slot = .dead count →
    g = { s.evb.regions[r] with
      slot := .idle, inForce := s.evb.regions[r].inForce && s.evb.regions[r].record.enabled } →
    ∃ t, exec (.deadCountEnd r) s = .next t
      ∧ 1 ≤ count ∧ count ≤ p.skippedBefore + 1
      ∧ (count = p.skippedBefore + 1 ∨ g.inForce = false → t.evb.regions[r] = g)
      ∧ (t.evb.regions[r] = g ∨ ∃ b, (s.passResult p).best[r] = some b
        ∧ t.evb.regions[r] = (if s.tts.swapPending = false then
            { g with slot := .opened (.ofBest b (s.passResult p)) }
          else if g.record.deadTime = 0 then { g with inForce := g.inForce && g.record.enabled }
          else { g with slot := .dead g.record.deadTime }))

/-- A declaration (R127 to R132): the number, the excerpt status in its order of tests, the summary at the tail
of a queue of fewer than 64 with lost-before, the job with its channel list for status QUEUED, and the loss
where the queue is full. -/
def Obligations.DeclarationIsAdmittedOrLost : Prop :=
  ∀ (s : State) (r : Fin 16) (reason : CloseReason) (k : Candidate) (status : ExcerptStatus),
    status = (if s.exu.mode = .off then .off else if reason = .stopped then .notTakenStopped
      else if 4 ≤ s.exu.jobs.length then .notTakenBusy else .queued) →
    (64 ≤ s.rpq.summaries.length →
      s.declareEvent r reason k = { s with evb := { s.evb with
        eventCounter := if s.evb.eventCounter = 4294967295 then 1 else s.evb.eventCounter + 1,
        lostBefore := min 65535 (s.evb.lostBefore + 1),
        lostTotal := min 4294967295 (s.evb.lostTotal + 1) } })
    ∧ (s.rpq.summaries.length < 64 → ∃ jobs,
      s.declareEvent r reason k = { s with
        evb := { s.evb with
          eventCounter := if s.evb.eventCounter = 4294967295 then 1 else s.evb.eventCounter + 1,
          lostBefore := 0 },
        rpq := { s.rpq with
          summaries := s.rpq.summaries ++ [.event
            { event := s.evb.eventCounter, region := r, reason := reason,
              closeOrigin := k.openOrigin + k.span - 1, candidate := k,
              lostBefore := s.evb.lostBefore, status := status }],
          attn := decide (s.rpq.threshold ≤ s.rpq.summaries.length + 1) },
        exu := { s.exu with jobs := s.exu.jobs ++ jobs } }
      ∧ (status ≠ .queued → jobs = [])
      ∧ (status = .queued → ∃ list : List JobChannel, jobs =
          [{ event := s.evb.eventCounter, origin := k.peakOrigin, label := k.peakLabel,
             decimation := 2 ^ s.ccu.decimation.val, pre := s.exu.pre, post := s.exu.post,
             channels := list, forced := false }]
        ∧ list.Pairwise (fun a b => a.channel < b.channel)
        ∧ ∀ c : JobChannel, c ∈ list ↔ k.peakDelays[c.channel] ≠ 255
          ∧ s.ccu.channels[c.channel].state ≠ .disabled
          ∧ c.delay = k.peakDelays[c.channel].toNat
          ∧ c.arrival = (k.peakOrigin + c.delay) * 2 ^ s.ccu.decimation.val))

/-- A close declares its event and leaves the slot DEAD with the dead time, or IDLE where that is 0 (R124);
closing all OPEN candidates, as a swap and STOP do (R125, R126), takes one event number for each, leaves
no candidate OPEN and every other slot as it was. That a disable waiting on the region takes effect at a
close by STOP with dead time 0 as at any other, where R116 and R133 have STOP keep the enabled in force, is
the model's choice (notes/assumptions/37.md), and so is that nothing of the instant comes between two of these
closes (notes/assumptions/38.md). -/
def Obligations.ClosesDeclareEveryOpenCandidate : Prop :=
  ∀ (s : State) (reason : CloseReason),
    (∀ (r : Fin 16) (k : Candidate), s.closeCandidate r reason k
      = (s.declareEvent r reason k).onRegion r fun g =>
        if g.record.deadTime = 0 then
          { g with slot := .idle, inForce := g.inForce && g.record.enabled }
        else { g with slot := .dead g.record.deadTime })
    ∧ (∀ (r : Fin 16) (g : Region), g = s.evb.regions[r] →
      (s.closeAll reason).evb.regions[r] = (match g.slot with
        | .idle | .dead _ => g
        | .opened _ => if g.record.deadTime = 0 then
            { g with slot := .idle, inForce := g.inForce && g.record.enabled }
          else { g with slot := .dead g.record.deadTime }))
    ∧ (s.closeAll reason).evb.eventCounter = (fun c => if c = 4294967295 then 1 else c + 1)^[
        (List.finRange 16).countP fun r => s.evb.regions[r].slot.code == 1]
      s.evb.eventCounter

/-- SET REGION (R113, R115): a body of another length and a number of 16 or more are refused; otherwise the
record is stored whole with its clamps, an enable is in force at once, a disable at once on an IDLE slot
alone. -/
def Obligations.SetRegionStoresTheRecord : Prop :=
  ∀ (s : State) (tag number enable : Byte) (declare coincidence weight release span dead : Nat)
    (body : List Byte), s.ready → declare < 256 → coincidence < 256 → weight < 65536 →
    release < 256 → span < 65536 → dead < 65536 →
    body = [number, enable, byte declare, byte coincidence] ++ le 2 weight ++ [byte release]
      ++ le 2 span ++ le 2 dead →
    (16 ≤ number.toNat → exec (.setRegion tag body) s = .next { s with
      cpt := s.cpt.replied 0x13 tag [0x03] })
    ∧ (∀ b : List Byte, b.length ≤ 1152 → b.length ≠ 11 → exec (.setRegion tag b) s = .next { s with
      cpt := s.cpt.replied 0x13 tag [0x01] })
    ∧ ∀ (r : Fin 16) (g : Region), number.toNat = r.val →
      g = { s.evb.regions[r] with
        record :=
          { enabled := enable.getLsbD 0, declareLevel := max 1 declare,
            coincidence := max 1 (min 48 coincidence), minWeight := max 1 (min 720 weight),
            release := max 1 (min 64 release), maxSpan := max 8 (min 4096 span),
            deadTime := min 4095 dead },
        inForce := enable.getLsbD 0
          || (s.evb.regions[r].inForce && decide (s.evb.regions[r].slot ≠ .idle)) } →
      exec (.setRegion tag body) s = .next { s.onRegion r (fun _ => g) with
        cpt := s.cpt.replied 0x13 tag
          ([0x00, number, flag g.record.enabled, byte g.record.declareLevel, byte g.record.coincidence]
            ++ le 2 g.record.minWeight ++ [byte g.record.release] ++ le 2 g.record.maxSpan
            ++ le 2 g.record.deadTime ++ [flag g.inForce, g.slot.code]) }

/-- Every step keeps a region whose enabled in force is no IDLE (R115). -/
def Obligations.OffRegionsAreIdle : Prop :=
  ∀ s t : State, s.evb.offIsIdle → step s = .next t → t.evb.offIsIdle

/-! ### The excerpt unit -/

/-- SET EXCERPT (R152) and SET ATTENTION (R187). -/
def Obligations.SetExcerptAndSetAttention : Prop :=
  ∀ (s : State) (tag : Byte), s.ready →
    (∀ (pre post allowance : Nat) (mode : ExcerptMode), pre < 65536 → post < 65536 →
      allowance < 65536 →
      exec (.setExcerpt tag (le 2 pre ++ le 2 post ++ [mode.code] ++ le 2 allowance)) s = .next { s with
        exu := { s.exu with
          pre := min 1023 pre, post := max 1 (min 2047 post), mode := mode,
          allowanceSetting := allowance },
        cpt := s.cpt.replied 0x31 tag ([0x00] ++ le 2 (min 1023 pre) ++ le 2 (max 1 (min 2047 post))
          ++ [mode.code] ++ le 2 allowance ++ le 2 s.exu.allowanceInForce
          ++ le 2 s.exu.allowanceLeft) })
    ∧ (∀ (pre post allowance : Nat) (mode : Byte), 4 ≤ mode.toNat →
      exec (.setExcerpt tag (le 2 pre ++ le 2 post ++ [mode] ++ le 2 allowance)) s = .next { s with
        cpt := s.cpt.replied 0x31 tag [0x03] })
    ∧ (∀ (value : Byte) (threshold : Nat), threshold = max 1 (min 64 value.toNat) →
      exec (.setAttention tag [value]) s = .next { s with
        rpq := { s.rpq with
          threshold := threshold, attn := decide (threshold ≤ s.rpq.summaries.length) },
        cpt := s.cpt.replied 0x32 tag [0x00, byte threshold, byte s.rpq.summaries.length] })

/-- EXCERPT_TAKE (R137, R138, R145, R150, R153): when the head job's last epoch is written, or it is forced, and
32 bytes are free, it leaves the queue, its excerpt of 32 header bytes and its segment bytes is written
whole into the free space, the allowance is charged and the counts are raised: the trimmed count where a
mode other than OFF omits a segment (R148, R151), the coarsened count where the width is 8 bits (R149). -/
def Obligations.ExcerptTakeWritesOneExcerpt : Prop :=
  ∀ (s : State) (j : Job) (rest : List Job) (b : Built) (x : Excerpt), s.exu.jobs = j :: rest →
    (j.forced = true ∨ j.channels = [] ∨ ∃ e, s.ccu.newestEpoch = some e
      ∧ ∀ c ∈ j.channels, c.arrival + j.post ≤ e + 1) →
    s.rpq.bytesHeld + 32 ≤ 65536 → s.roundDue = false → b = s.build j →
    x = { event := j.event, origin := j.origin, label := j.label, bytes := b.bytes j s.exu.mode } →
    exec .excerptTake s = .next { s with
      exu := { s.exu with
        jobs := rest, allowanceLeft := s.exu.allowanceLeft - b.segmentSize,
        excerptCount := min 4294967295 (s.exu.excerptCount + 1),
        trimmedCount := if b.trimmed = true then min 4294967295 (s.exu.trimmedCount + 1)
          else s.exu.trimmedCount,
        coarsenedCount := if b.coarsened = true then min 4294967295 (s.exu.coarsenedCount + 1)
          else s.exu.coarsenedCount },
      rpq := { s.rpq with excerpts := s.rpq.excerpts ++ [x] } }
    ∧ x.bytes.length = 32 + b.segmentSize
    ∧ s.rpq.bytesHeld + x.bytes.length ≤ 65536
    ∧ (s.exu.mode = .trim ∨ s.exu.mode = .coarsen → b.segmentSize ≤ s.exu.allowanceLeft)
    ∧ j.channels.length = b.fit.written.length + b.missing + b.fit.omitted
    ∧ (b.trimmed = true ↔ s.exu.mode ≠ .off ∧ b.fit.omitted ≠ 0)
    ∧ (b.coarsened = true ↔ b.fit.width = .bits8)
    ∧ (b.fit.width = .bits8 → s.exu.mode = .coarsen)

/-- Fitting (R148, R149, R151): in FULL and TRIM the longest beginning of the ordered segments that fits at 16
bits; in COARSEN all of them at 16 bits where they fit, and otherwise the longest beginning that fits at 8;
in OFF none. -/
def Obligations.FittingKeepsTheLongestBeginning : Prop :=
  ∀ (limit : Nat) (gs : List Segment) (mode : ExcerptMode) (f : Fit), f = fitSegments mode limit gs →
    f.written.length + f.omitted = gs.length
    ∧ (mode = .full ∨ mode = .trim → f.width = .bits16 ∧ keepsUpTo .bits16 limit gs f.written)
    ∧ (mode = .coarsen → totalSize .bits16 gs ≤ limit → f.width = .bits16 ∧ f.written = gs)
    ∧ (mode = .coarsen → limit < totalSize .bits16 gs →
      f.width = .bits8 ∧ keepsUpTo .bits8 limit gs f.written)
    ∧ (mode = .off → f.width = .bits16 ∧ f.written = [])

/-- Block-shift encoding (R142, R143): the smallest shift at which the peak fits, the greatest where none does;
while the peak fits, no sample saturates and each decodes to within half a unit of the shift, rounded half
up. -/
def Obligations.EncodedSamplesDecodeClosely : Prop :=
  ∀ (w : Width) (g : Segment) (n : Nat), n = shiftFor w g.peak →
    n ≤ w.maxShift ∧ (0 < n → w.top * 2 ^ (n - 1) < g.peak)
    ∧ (w.top * 2 ^ w.maxShift < g.peak → n = w.maxShift)
    ∧ (∀ y ∈ g.samples, -(w.top : Int) - 1 ≤ encodeSample w n y.value
      ∧ encodeSample w n y.value ≤ w.top)
    ∧ (g.peak ≤ w.top * 2 ^ w.maxShift → g.peak ≤ w.top * 2 ^ n ∧ g.saturates w = false
      ∧ ∀ y ∈ g.samples, -(w.top : Int) ≤ encodeSample w n y.value
        ∧ -(2 : Int) ^ n < 2 * (encodeSample w n y.value * 2 ^ n - y.value)
        ∧ 2 * (encodeSample w n y.value * 2 ^ n - y.value) ≤ 2 ^ n)

/-- Cutting a window P, Q at arrival a against the epochs held, newest − 4095 to newest (R136, R139): gone,
not reached, or a segment of the epochs they share, each with the contents of the ring, with its two clip
flags; and the order of the segments (R144): earlier arrival first, then lower channel. -/
def Obligations.SegmentsAreCutAndOrdered : Prop :=
  (∀ (ring : Memory RawEntry) (newest pre post low : Nat) (c : JobChannel), 1 ≤ post →
    low = newest - 4095 →
    cutWindow ring none pre post c = .notReached
    ∧ (c.arrival + post ≤ low → cutWindow ring (some newest) pre post c = .gone)
    ∧ (low < c.arrival + post → newest + pre < c.arrival →
      cutWindow ring (some newest) pre post c = .notReached)
    ∧ (low < c.arrival + post → c.arrival ≤ newest + pre →
      ∃ g, cutWindow ring (some newest) pre post c = .segment g
        ∧ g.channel = c.channel ∧ g.delay = c.delay ∧ g.arrival = c.arrival
        ∧ g.offset = max (-(pre : Int)) (low - c.arrival)
        ∧ 1 ≤ g.samples.length
        ∧ g.offset + g.samples.length = min (post : Int) (newest - c.arrival + 1)
        ∧ (∀ i, i < g.samples.length → g.samples[i]?
          = some (Memory.read .cleared ring ((c.arrival + g.offset + i).toNat % 4096)))
        ∧ (g.headClip = true ↔ c.arrival < low + pre)
        ∧ (g.tailClip = true ↔ newest + 1 < c.arrival + post)))
  ∧ (∀ gs : List Segment, (orderSegments gs).Perm gs ∧ (orderSegments gs).Pairwise fun a b =>
    a.arrival < b.arrival ∨ a.arrival = b.arrival ∧ a.channel ≤ b.channel)

/-! ### The report queues -/

/-- FETCH SUMMARY (R184, R187) and FETCH EXCERPT (R186): EMPTY, or the head record, or the next chunk of at most
1024 bytes of the head excerpt, which leave the queue as the reply is formed. That a take which the freed room
makes due is a row of its own is the model's choice (notes/assumptions/39.md). -/
def Obligations.FetchesTakeFromTheHead : Prop :=
  ∀ (s : State) (tag : Byte), s.ready →
    (s.rpq.summaries = [] → exec (.fetchSummary tag []) s = .next { s with
      cpt := s.cpt.replied 0x50 tag [0x06] })
    ∧ (∀ x rest, s.rpq.summaries = x :: rest → exec (.fetchSummary tag []) s = .next { s with
      rpq := { s.rpq with summaries := rest, attn := decide (s.rpq.threshold ≤ rest.length) },
      cpt := s.cpt.replied 0x50 tag ([0x00, byte rest.length] ++ x.bytes) })
    ∧ (s.rpq.excerpts = [] → exec (.fetchExcerpt tag []) s = .next { s with
      cpt := s.cpt.replied 0x51 tag [0x06] })
    ∧ (∀ (x : Excerpt) (rest : List Excerpt) (chunk : List Byte) (last : Bool) (q : Reports),
      s.rpq.excerpts = x :: rest → chunk = (x.bytes.drop s.rpq.headOffset).take 1024 →
      last = decide (s.rpq.headOffset + chunk.length = x.bytes.length) →
      q = (if last = true then { s.rpq with excerpts := rest, headOffset := 0 }
        else { s.rpq with headOffset := s.rpq.headOffset + chunk.length }) →
      exec (.fetchExcerpt tag []) s = .next { s with
        rpq := q,
        cpt := s.cpt.replied 0x51 tag ([0x00] ++ le 4 x.event ++ le 6 x.origin ++ x.label.bytes
          ++ le 4 x.bytes.length ++ le 4 s.rpq.headOffset ++ le 2 chunk.length ++ [flag last]
          ++ le 2 q.excerpts.length ++ le 4 q.bytesHeld ++ chunk) })

/-- Every step keeps the queues within their sizes, the excerpt queue's 65,536 bytes and its head offset among
them, ATTN at its level, the allowance remaining within the one in force, and the transmit queue and the
backlog within their places (R135, R146, R174, R177, R183, R185, R187). -/
def Obligations.QueuesStayWithinCapacity : Prop :=
  ∀ s t : State, s.withinCapacity → step s = .next t → t.withinCapacity

/-! ### The control port -/

/-- The bytes of a whole frame, marker to check, received one after another from HUNTING, reach the port as the
row of its request does (R169 to R173); that a request row is the completion of its frame is the model's
choice (notes/assumptions/8.md). -/
def Obligations.FrameBytesReachThePort : Prop :=
  ∀ (s : State) (kind tag : Byte) (body : List Byte), s.cpt.receiver = .hunting → body.length ≤ 1152 →
    State.receives (frameBytes kind tag body) s = .next (s.hostSends kind tag body)

/-- RX_BYTE and GAP_TIMEOUT (R169 to R174): a line error, a byte discarded in HUNTING, the marker, a length
above 1,152, a check that fails or matches, and the gap timer's 163,840 reference cycles of 10 ms
(notes/assumptions/23.md). That kind, tag, length and first check byte are 0 before their own bytes are taken is
the model's choice (notes/assumptions/40.md), and so is that GAP_TIMEOUT lets time pass to its instant
(notes/assumptions/4.md). The bytes inside a frame are stated by FrameBytesReachThePort. -/
def Obligations.ReceiverJudgesBytesAndGaps : Prop :=
  ∀ (s : State) (b : Byte) (dropped : LinkCounters → State),
    (∀ c, dropped c = { s with cpt := { s.cpt with receiver := .hunting, counters := c } }) →
    exec (.rxByte b false) s = .next (dropped { s.cpt.counters with
        lineErrors := min 4294967295 (s.cpt.counters.lineErrors + 1) })
    ∧ (s.cpt.receiver = .hunting → b ≠ 0xD3 → exec (.rxByte b true) s = .next (dropped { s.cpt.counters with
        huntDiscards := min 4294967295 (s.cpt.counters.huntDiscards + 1) }))
    ∧ (∀ f : FrameInProgress, s.cpt.receiver = .hunting → b = 0xD3 →
      f = { position := 1, kind := 0, tag := 0, length := 0, body := [], check := 0xFFFF,
            checkLow := 0, gap := 0 } →
      exec (.rxByte b true) s = .next { s with cpt := { s.cpt with receiver := .inFrame f } })
    ∧ (∀ f, s.cpt.receiver = .inFrame f → f.position = 4 → 1152 < f.length + 256 * b.toNat →
      exec (.rxByte b true) s = .next (dropped { s.cpt.counters with
        lengthDrops := min 4294967295 (s.cpt.counters.lengthDrops + 1) }))
    ∧ (∀ f, s.cpt.receiver = .inFrame f → f.position = f.length + 6 →
      f.check.toNat ≠ f.checkLow.toNat + 256 * b.toNat →
      exec (.rxByte b true) s = .next (dropped { s.cpt.counters with
        checkDrops := min 4294967295 (s.cpt.counters.checkDrops + 1) }))
    ∧ (∀ f, s.cpt.receiver = .inFrame f → f.position = f.length + 6 →
      f.check.toNat = f.checkLow.toNat + 256 * b.toNat →
      exec (.rxByte b true) s = .next ((dropped s.cpt.counters).acceptFrame
        { kind := f.kind, tag := f.tag, body := f.body }))
    ∧ (∀ n f, s.cpt.receiver = .inFrame f → s.comesIn .gapTimeout n →
      (f.gap ≤ 163840 → f.gap + n = 163840)
      ∧ exec .gapTimeout s = .next { s.elapse n with
          cpt := { s.cpt with
            receiver := .hunting,
            sentFor := if s.cpt.transmit = [] then s.cpt.sentFor else s.cpt.sentFor + n,
            counters := { s.cpt.counters with
              gapDrops := min 4294967295 (s.cpt.counters.gapDrops + 1) } } })

/-- The backlog and the transmit queue (R174, R175, R177): a frame of a reply kind is dropped; a valid frame
that finds fewer than 3 in the backlog and the port not free waits; one that finds 3 is answered BUSY, or
dropped where the transmit queue holds 4; and the reply sent makes way for a reply that waits, after which
the waiting frames are executed in their order. TXD is high while no reply is sent, and otherwise shows the bit
of the head reply, a start bit, eight data bits and a stop bit for each byte, that a rate within 0.5 per cent of
the nominal one has reached. That the waiting frames follow one another directly, with nothing else of the
instant between, is the model's choice (notes/assumptions/39.md), and so are that a reply is begun in the instant
in which it comes to the head and sent when the sender says (notes/assumptions/10.md), and that a request in the
instant of an epoch event of which the tick completion or the end of priming is still to be taken finds it taken
(notes/assumptions/5.md). -/
def Obligations.FramesWaitTheirTurn : Prop :=
  ∀ s : State,
    (s.cpt.transmit = [] → s.cpt.txd = true)
    ∧ (∀ r rest, s.cpt.transmit = r :: rest → ∃ place,
      s.cpt.sentFor * s.cpt.lineRate.baud * 995 / 16384000000 ≤ place
      ∧ place ≤ s.cpt.sentFor * s.cpt.lineRate.baud * 1005 / 16384000000
      ∧ s.cpt.txd = (r.bytes.flatMap fun b => [false, b.getLsbD 0, b.getLsbD 1, b.getLsbD 2, b.getLsbD 3,
          b.getLsbD 4, b.getLsbD 5, b.getLsbD 6, b.getLsbD 7, true]).getD place true)
    ∧ (∀ (kind tag : Byte) (body : List Byte), body.length ≤ 1152 →
      (128 ≤ kind.toNat → s.hostSends kind tag body = s.count fun c =>
        { c with kindDrops := min 4294967295 (c.kindDrops + 1) })
      ∧ (kind.toNat < 128 → s.cpt.backlog < 3 →
        s.cpt.executing ≠ none ∨ s.cpt.resetPending = true →
        s.hostSends kind tag body = { s.counted with cpt := { s.counted.cpt with
          waiting := s.cpt.waiting ++ [{ kind := kind, tag := tag, body := body }] } })
      ∧ (kind.toNat < 128 → 3 ≤ s.cpt.backlog → s.cpt.transmit.length < 4 →
        s.hostSends kind tag body = { s with cpt := { s.cpt with
          transmit := s.cpt.transmit ++ [{ kind := kind + 0x80, tag := tag, body := [0x05] }],
          counters := { s.cpt.counters with
            validFrames := min 4294967295 (s.cpt.counters.validFrames + 1),
            busys := min 4294967295 (s.cpt.counters.busys + 1) } } })
      ∧ (kind.toNat < 128 → 3 ≤ s.cpt.backlog → 4 ≤ s.cpt.transmit.length →
        s.hostSends kind tag body = { s with cpt := { s.cpt with
          counters := { s.cpt.counters with
            validFrames := min 4294967295 (s.cpt.counters.validFrames + 1),
            overflowDrops := min 4294967295 (s.cpt.counters.overflowDrops + 1) } } }))
    ∧ (∀ r rest, s.cpt.transmit = r :: rest →
      s.cpt.resetPending = false ∨ r.kind ≠ 0x82 ∨ r.body ≠ [0x00] →
      (∀ w, s.cpt.executing = some (.replyWaiting w) → exec .replySent s = .next
        (State.runWaiting { s with cpt := { s.cpt with
          transmit := rest ++ [w], sentFor := 0, executing := none } }))
      ∧ (∀ tag, s.cpt.executing = some (.tableRead tag) → exec .replySent s = .next { s with
        cpt := { s.cpt with transmit := rest, sentFor := 0 } })
      ∧ (s.cpt.executing = none → exec .replySent s = .next
        (State.runWaiting { s with cpt := { s.cpt with transmit := rest, sentFor := 0 } })))
    ∧ (s.cpt.executing ≠ none ∨ s.cpt.resetPending = true ∨ s.cpt.waiting = [] → s.runWaiting = s)
    ∧ (∀ f rest, s.cpt.executing = none → s.cpt.resetPending = false → s.cpt.waiting = f :: rest →
      s.runWaiting = (State.executeFrame { s with cpt := { s.cpt with waiting := rest } } f).runWaiting)
    ∧ (∀ (kind tag : Byte) (body : List Byte) (u : State), kind.toNat < 128 → body.length ≤ 1152 →
      s.cpt.executing = none → s.cpt.waiting = [] → s.cpt.resetPending = false → s.roundDue = false →
      s.ccu.stage = .completion ∧ exec .tickCompletion s = .next u
        ∨ s.ccu.stage = .primingEnd ∧ exec .primingEnd s = .next u →
      s.hostSends kind tag body = u.hostSends kind tag body)

/-- The soft reset, at the end of the reply to RESET (R165, R181, R182, with each block's own rule): what it
clears and what it keeps in every block. That the second in progress keeps its label, but for the quality of an
epoch opened in this very cycle (R58), and the SMP pulse its length is the model's choice
(notes/assumptions/28.md), and so are how the reply to RESET is told
(notes/assumptions/26.md) and that a rollover due at once is left to FREE_RUN_ROLLOVER
(notes/assumptions/32.md). -/
def Obligations.SoftResetKeepsTheConfiguration : Prop :=
  ∀ (s : State) (r : Reply) (rest : List Reply), s.cpt.transmit = r :: rest →
    s.cpt.resetPending = true → r.kind = 0x82 → r.body = [0x00] →
    ∃ t, exec .replySent s = .next t
      ∧ t.pending = s.pending ∧ t.mdc = { mode := .standby, countdown := 0 }
      ∧ (∀ i : Fin 6, t.trx[i] =
        { fv := s.trx[i].fv, state := .arming, byteCount := 0, bitCount := 0,
          byteInProgress := 0, frame := [], faults := 0, breaks := 0 })
      ∧ (∀ k : Fin 48, t.ccu.channels[k] = { s.ccu.channels[k] with
        state := if s.ccu.channels[k].record.enabled = true then .recovering else .disabled,
        heldRun := 0, goodRun := 0, last := 0, heldCount := 0, clipCount := 0, saturationCount := 0,
        staleCount := 0, rawRing := [], envelopeSum := 0, heldInTick := false, liveThroughout := true,
        sta := 0, lta := 0, cfRing := [] })
      ∧ t.ccu = { s.ccu with
        channels := t.ccu.channels, openEpoch := none, newestEpoch := none, tickCount := 0,
        tickLabel := { seconds := 0, index := 0, quality := .free, step := false },
        labelRing := [], stage := .none }
      ∧ t.tbu = { s.tbu with
        counter := 0, state := .free, cRef := 16384000, lockStreak := 0, missed := 0, seconds := 0,
        pendingSeconds := none, ppsEdges := 0, rejects := 0, outliers := 0, locks := 0, holdovers := 0,
        label := { s.tbu.label with
          quality := if s.tbu.position = s.tbu.issueAt s.tbu.sampleIndex then .free
            else s.tbu.label.quality } }
      ∧ t.tts = { s.tts with
        pointer := { node := 0, channel := 0, mode := .advance }, swapPending := false, copy := none,
        waitingRead := none, round := none }
      ∧ t.stk = { s.stk with
        origins := [], pass := none, skippedSince := 0, skippedTotal := 0, passCount := 0,
        countdown := 0, block := .empty, lostBlocks := 0 }
      ∧ (∀ g : Fin 16, t.evb.regions[g] = { s.evb.regions[g] with
        slot := .idle, inForce := s.evb.regions[g].record.enabled })
      ∧ t.evb.eventCounter = 1 ∧ t.evb.lostBefore = 0 ∧ t.evb.lostTotal = 0
      ∧ t.exu = { s.exu with
        jobs := [], excerptCount := 0, trimmedCount := 0, coarsenedCount := 0, discardedCount := 0 }
      ∧ t.rpq = { s.rpq with
        summaries := [], excerpts := [], headOffset := 0, attn := decide (s.rpq.threshold = 0) }
      ∧ t.cpt =
        { lineRate := s.cpt.lineRate, receiver := .hunting, executing := none, waiting := [],
          transmit := [], sentFor := 0, resetPending := false,
          counters :=
            { huntDiscards := 0, lineErrors := 0, lengthDrops := 0, gapDrops := 0, checkDrops := 0,
              kindDrops := 0, validFrames := 0, busys := 0, overflowDrops := 0 } }

/-- STATUS (R180) replies with a snapshot that counts its own frame and changes nothing; RESET (R181) replies OK
and sets reset pending; and the sizes of the snapshots and of the records of the report queues (R191 to
R193). -/
def Obligations.StatusAndResetReply : Prop :=
  (∀ (s : State) (tag : Byte), s.ready →
    exec (.status tag []) s = .next { s with
      cpt := s.cpt.replied 0x01 tag ([0x00] ++ s.counted.statusSnapshot) }
    ∧ exec (.reset tag []) s = .next { s with
      cpt := { s.cpt.replied 0x02 tag [0x00] with resetPending := true } })
  ∧ (∀ s : State, s.statusSnapshot.length = 452 ∧ ∀ k, (s.channelSnapshot k).length = 58)
  ∧ (∀ e : EventSummary, e.bytes.length = 95)
  ∧ (∀ m : MonitorRecord, m.block.values.length = 32 → m.bytes.length = 91)

/-- SET ACQUISITION (R37, R57, R164), SET CHANNEL (R18) and CHANNEL REPORT (R20 to R22). That the other bits of
the flags byte in the reply to SET CHANNEL are 0 is the model's choice (notes/assumptions/20.md). -/
def Obligations.ConditionerRequests : Prop :=
  ∀ (s : State) (tag : Byte), s.ready →
    (∀ (rate dec : Fin 4) (sta lta : Nat), s.mode = .standby → 1 ≤ sta → sta ≤ 7 → 4 ≤ lta →
      lta ≤ 14 → sta + 3 ≤ lta →
      exec (.setAcquisition tag [byte rate.val, byte dec.val, byte sta, byte lta]) s = .next { s with
        ccu := { s.ccu with decimation := dec, staShift := sta, ltaShift := lta },
        tbu := { s.tbu with fsSetting := rate },
        cpt := s.cpt.replied 0x10 tag [0x00, byte rate.val, byte dec.val, byte sta, byte lta] })
    ∧ (∀ rate dec sta lta : Byte, s.mode = .standby →
      4 ≤ rate.toNat ∨ 4 ≤ dec.toNat ∨ sta = 0 ∨ 7 < sta.toNat ∨ lta.toNat < 4 ∨ 14 < lta.toNat
        ∨ lta.toNat < sta.toNat + 3 →
      exec (.setAcquisition tag [rate, dec, sta, lta]) s = .next { s with
        cpt := s.cpt.replied 0x10 tag [0x03] })
    ∧ (∀ rate dec sta lta : Byte, s.mode ≠ .standby →
      exec (.setAcquisition tag [rate, dec, sta, lta]) s = .next { s with
        cpt := s.cpt.replied 0x10 tag [0x04] })
    ∧ (∀ (k : Fin 48) (flags : Byte) (gain weight trigger freeze noise stale recovery : Nat)
      (rec : ChannelRecord), gain < 65536 → weight < 256 → trigger < 256 → freeze < 256 →
      noise < 65536 → stale < 256 → recovery < 256 →
      rec = { enabled := flags.getLsbD 0, member := flags.getLsbD 1, gain := gain,
              weight := min 15 weight, trigger := trigger, freeze := freeze, noise := noise,
              staleLimit := max 1 stale, recovery := max 1 recovery } →
      exec (.setChannel tag ([byte k.val, flags] ++ le 2 gain ++ [byte weight, byte trigger, byte freeze]
          ++ le 2 noise ++ [byte stale, byte recovery])) s = .next { s with
        ccu := { s.ccu with
          channels := s.ccu.channels.set k.val { s.ccu.channels[k] with record := rec } },
        cpt := s.cpt.replied 0x11 tag ([0x00, byte k.val,
            byte ((if rec.enabled = true then 1 else 0) + (if rec.member = true then 2 else 0))]
          ++ le 2 gain ++ [byte (min 15 weight), byte trigger, byte freeze] ++ le 2 noise
          ++ [byte (max 1 stale), byte (max 1 recovery)]) })
    ∧ (∀ (number : Byte) (body : List Byte), 48 ≤ number.toNat → body.length = 10 →
      exec (.setChannel tag (number :: body)) s = .next { s with
        cpt := s.cpt.replied 0x11 tag [0x03] })
    ∧ (∀ (k : Fin 48) (flags : Byte),
      exec (.channelReport tag [byte k.val, flags]) s = .next { s with
        ccu := if flags.getLsbD 0 = true then { s.ccu with
            channels := s.ccu.channels.set k.val { s.ccu.channels[k] with
              heldCount := 0, clipCount := 0, saturationCount := 0, staleCount := 0 } }
          else s.ccu,
        cpt := s.cpt.replied 0x12 tag ([0x00] ++ s.channelSnapshot k) })
    ∧ (∀ number flags : Byte, 48 ≤ number.toNat →
      exec (.channelReport tag [number, flags]) s = .next { s with
        cpt := s.cpt.replied 0x12 tag [0x03] })

/-! ### Modes -/

/-- START (R158, R159 with the rules of its table) and STOP (R162, R163 with the rules of its table). A swap left
pending at a STOP stays pending through the requests of its instant, a START among them, and its round is
then due (R82, R167); which of the two comes first is the model's choice (notes/assumptions/15.md). The
model's choice too are that a take due in the instant of a START comes before it (notes/assumptions/16.md),
that the takes which a STOP makes due are rows of their own behind it, so that the forced jobs still wait in the
state after it (notes/assumptions/39.md), that no take comes between the closes of a STOP
(notes/assumptions/38.md), and that the reply to START carries D itself (notes/assumptions/19.md). -/
def Obligations.StartAndStopTheRun : Prop :=
  (∀ (s : State) (tag : Byte) (idle : Engine), s.ready →
    idle = { s.stk with
      origins := [], pass := none, skippedSince := 0, block := .empty, countdown := 0 } →
    (s.mode ≠ .standby ∨ s.tts.activeBank.count = 0 →
      exec (.start tag []) s = .next { s with cpt := s.cpt.replied 0x40 tag [0x04] })
    ∧ (s.mode = .standby → s.tts.activeBank.count ≠ 0 → s.takeReady = true →
      exec (.start tag []) s = exec (.start tag []) s.take)
    ∧ (s.mode = .standby → s.tts.activeBank.count ≠ 0 → s.takeReady = false →
      ∃ t, exec (.start tag []) s = .next t
        ∧ t.mdc = { mode := .priming, countdown := max 256 (2 ^ s.ccu.ltaShift) }
        ∧ (∀ k : Fin 48, t.ccu.channels[k] = { s.ccu.channels[k] with
          state := if s.ccu.channels[k].record.enabled = true then .recovering else .disabled,
          heldRun := 0, goodRun := 0, last := 0, rawRing := [], envelopeSum := 0,
          heldInTick := false, liveThroughout := true, sta := 0, lta := 0, cfRing := [] })
        ∧ t.ccu = { s.ccu with
          channels := t.ccu.channels, openEpoch := none, newestEpoch := none, tickCount := 0,
          tickLabel := { seconds := 0, index := 0, quality := .free, step := false },
          labelRing := [] }
        ∧ t.stk = idle
        ∧ (∀ r : Fin 16, t.evb.regions[r] = { s.evb.regions[r] with
          slot := .idle, inForce := s.evb.regions[r].record.enabled })
        ∧ t.evb.eventCounter = s.evb.eventCounter ∧ t.evb.lostBefore = s.evb.lostBefore
        ∧ t.evb.lostTotal = s.evb.lostTotal
        ∧ t.exu = { s.exu with
          jobs := [],
          discardedCount := min 4294967295 (s.exu.discardedCount + s.exu.jobs.length) }
        ∧ t.cpt = s.cpt.replied 0x40 tag ([0x00] ++ le 2 (max 256 (2 ^ s.ccu.ltaShift))
          ++ [s.tts.active.code] ++ le 2 s.tts.activeBank.count
          ++ [byte (2 ^ s.ccu.decimation.val), byte s.ccu.staShift, byte s.ccu.ltaShift])
        ∧ t.pending = s.pending ∧ t.trx = s.trx ∧ t.tbu = s.tbu ∧ t.tts = s.tts ∧ t.rpq = s.rpq)
    ∧ (s.mode = .standby →
      exec (.stop tag []) s = .next { s with cpt := s.cpt.replied 0x41 tag [0x04] })
    ∧ (s.mode ≠ .standby →
      ∃ t, exec (.stop tag []) s = .next t
        ∧ t.mdc = { mode := .standby, countdown := 0 } ∧ t.ccu = s.ccu
        ∧ t.evb = (s.closeAll .stopped).evb ∧ t.rpq = (s.closeAll .stopped).rpq
        ∧ t.exu = { s.exu with jobs := s.exu.jobs.map fun j => { j with forced := true } }
        ∧ t.tts = { s.tts with
          copy := none, round := s.tts.round.filter fun g => g.grant = .read }
        ∧ t.stk = idle
        ∧ t.cpt = s.cpt.replied 0x41 tag ([0x00, s.mode.code] ++ le 6 s.ccu.tickCount)
        ∧ t.pending = s.pending ∧ t.trx = s.trx ∧ t.tbu = s.tbu))
  ∧ (∀ s : State, s.stk.pass = none → s.stk.origins = [] → s.tts.swapPending = true →
    s.tts.waitingRead = none → s.tts.copy = none → s.tts.round = none →
    (∀ r : Fin 16, s.evb.regions[r].slot.code ≠ 1) →
    s.roundDue = true
    ∧ s.startRound = { s with
        tts := { s.tts with active := s.tts.active.other, swapPending := false },
        stk := { s.stk with
          block := .empty, countdown := 0,
          tapEnabled := s.stk.tapEnabled && decide (s.stk.tapNode < s.tts.shadowBank.count) } })

/-- A request refused before its block sees it changes nothing but the port (R175): a kind that names no
request, which is UNKNOWN_KIND's own effect, a body length that the kind does not allow, and an edit of a
locked bank (R72). -/
def Obligations.RefusedRequestsChangeNothing : Prop :=
  ∀ (s : State) (tag : Byte) (body : List Byte), s.ready → body.length ≤ 1152 →
    (∀ kind : Byte, kind.toNat < 128 → (∀ r : Request, r.kind ≠ kind) →
      exec (.unknownKind kind tag body) s = .next { s with cpt := s.cpt.replied kind tag [0x02] })
    ∧ (∀ r : Request, r.lengthOk body = false →
      exec (r.command tag body) s = .next { s with cpt := s.cpt.replied r.kind tag [0x01] })
    ∧ (∀ r : Request, r.lengthOk body = true → s.tts.locked = true →
      r ∈ [Request.tableWrite, .bankSize, .regionMap, .bankCopy, .bankActivate] →
      exec (r.command tag body) s = .next { s with cpt := s.cpt.replied r.kind tag [0x07] })

/-- Every step keeps every ring and both banks in canonical form, which is the model's own way of holding them
(notes/assumptions/21.md). -/
def Obligations.StorageStaysCanonical : Prop :=
  ∀ s t : State, s.storageWf → step s = .next t → t.storageWf

end
end

