-- ==== Sys2Proof/Laws/State.lean ====
section
/-! SUPPORT. One lemma per block per update of State, and the same for the updates of one trunk and of one
region and for the passing of time, so that no later proof unfolds a record update. -/

namespace Sys2Proof.Machine

variable (s : State)

/-! ### withPending -/

@[simp] theorem State.withPending_pending (x : List Instr) : (s.withPending x).pending = x := rfl
@[simp] theorem State.withPending_trx (x : List Instr) : (s.withPending x).trx = s.trx := rfl
@[simp] theorem State.withPending_ccu (x : List Instr) : (s.withPending x).ccu = s.ccu := rfl
@[simp] theorem State.withPending_tbu (x : List Instr) : (s.withPending x).tbu = s.tbu := rfl
@[simp] theorem State.withPending_tts (x : List Instr) : (s.withPending x).tts = s.tts := rfl
@[simp] theorem State.withPending_stk (x : List Instr) : (s.withPending x).stk = s.stk := rfl
@[simp] theorem State.withPending_evb (x : List Instr) : (s.withPending x).evb = s.evb := rfl
@[simp] theorem State.withPending_exu (x : List Instr) : (s.withPending x).exu = s.exu := rfl
@[simp] theorem State.withPending_rpq (x : List Instr) : (s.withPending x).rpq = s.rpq := rfl
@[simp] theorem State.withPending_cpt (x : List Instr) : (s.withPending x).cpt = s.cpt := rfl
@[simp] theorem State.withPending_mdc (x : List Instr) : (s.withPending x).mdc = s.mdc := rfl

/-! ### withTrx -/

@[simp] theorem State.withTrx_pending (x : Vector Trunk 6) : (s.withTrx x).pending = s.pending := rfl
@[simp] theorem State.withTrx_trx (x : Vector Trunk 6) : (s.withTrx x).trx = x := rfl
@[simp] theorem State.withTrx_ccu (x : Vector Trunk 6) : (s.withTrx x).ccu = s.ccu := rfl
@[simp] theorem State.withTrx_tbu (x : Vector Trunk 6) : (s.withTrx x).tbu = s.tbu := rfl
@[simp] theorem State.withTrx_tts (x : Vector Trunk 6) : (s.withTrx x).tts = s.tts := rfl
@[simp] theorem State.withTrx_stk (x : Vector Trunk 6) : (s.withTrx x).stk = s.stk := rfl
@[simp] theorem State.withTrx_evb (x : Vector Trunk 6) : (s.withTrx x).evb = s.evb := rfl
@[simp] theorem State.withTrx_exu (x : Vector Trunk 6) : (s.withTrx x).exu = s.exu := rfl
@[simp] theorem State.withTrx_rpq (x : Vector Trunk 6) : (s.withTrx x).rpq = s.rpq := rfl
@[simp] theorem State.withTrx_cpt (x : Vector Trunk 6) : (s.withTrx x).cpt = s.cpt := rfl
@[simp] theorem State.withTrx_mdc (x : Vector Trunk 6) : (s.withTrx x).mdc = s.mdc := rfl

/-! ### withCcu -/

@[simp] theorem State.withCcu_pending (x : Conditioner) : (s.withCcu x).pending = s.pending := rfl
@[simp] theorem State.withCcu_trx (x : Conditioner) : (s.withCcu x).trx = s.trx := rfl
@[simp] theorem State.withCcu_ccu (x : Conditioner) : (s.withCcu x).ccu = x := rfl
@[simp] theorem State.withCcu_tbu (x : Conditioner) : (s.withCcu x).tbu = s.tbu := rfl
@[simp] theorem State.withCcu_tts (x : Conditioner) : (s.withCcu x).tts = s.tts := rfl
@[simp] theorem State.withCcu_stk (x : Conditioner) : (s.withCcu x).stk = s.stk := rfl
@[simp] theorem State.withCcu_evb (x : Conditioner) : (s.withCcu x).evb = s.evb := rfl
@[simp] theorem State.withCcu_exu (x : Conditioner) : (s.withCcu x).exu = s.exu := rfl
@[simp] theorem State.withCcu_rpq (x : Conditioner) : (s.withCcu x).rpq = s.rpq := rfl
@[simp] theorem State.withCcu_cpt (x : Conditioner) : (s.withCcu x).cpt = s.cpt := rfl
@[simp] theorem State.withCcu_mdc (x : Conditioner) : (s.withCcu x).mdc = s.mdc := rfl

/-! ### withTbu -/

@[simp] theorem State.withTbu_pending (x : Timebase) : (s.withTbu x).pending = s.pending := rfl
@[simp] theorem State.withTbu_trx (x : Timebase) : (s.withTbu x).trx = s.trx := rfl
@[simp] theorem State.withTbu_ccu (x : Timebase) : (s.withTbu x).ccu = s.ccu := rfl
@[simp] theorem State.withTbu_tbu (x : Timebase) : (s.withTbu x).tbu = x := rfl
@[simp] theorem State.withTbu_tts (x : Timebase) : (s.withTbu x).tts = s.tts := rfl
@[simp] theorem State.withTbu_stk (x : Timebase) : (s.withTbu x).stk = s.stk := rfl
@[simp] theorem State.withTbu_evb (x : Timebase) : (s.withTbu x).evb = s.evb := rfl
@[simp] theorem State.withTbu_exu (x : Timebase) : (s.withTbu x).exu = s.exu := rfl
@[simp] theorem State.withTbu_rpq (x : Timebase) : (s.withTbu x).rpq = s.rpq := rfl
@[simp] theorem State.withTbu_cpt (x : Timebase) : (s.withTbu x).cpt = s.cpt := rfl
@[simp] theorem State.withTbu_mdc (x : Timebase) : (s.withTbu x).mdc = s.mdc := rfl

/-! ### withTts -/

@[simp] theorem State.withTts_pending (x : TableStore) : (s.withTts x).pending = s.pending := rfl
@[simp] theorem State.withTts_trx (x : TableStore) : (s.withTts x).trx = s.trx := rfl
@[simp] theorem State.withTts_ccu (x : TableStore) : (s.withTts x).ccu = s.ccu := rfl
@[simp] theorem State.withTts_tbu (x : TableStore) : (s.withTts x).tbu = s.tbu := rfl
@[simp] theorem State.withTts_tts (x : TableStore) : (s.withTts x).tts = x := rfl
@[simp] theorem State.withTts_stk (x : TableStore) : (s.withTts x).stk = s.stk := rfl
@[simp] theorem State.withTts_evb (x : TableStore) : (s.withTts x).evb = s.evb := rfl
@[simp] theorem State.withTts_exu (x : TableStore) : (s.withTts x).exu = s.exu := rfl
@[simp] theorem State.withTts_rpq (x : TableStore) : (s.withTts x).rpq = s.rpq := rfl
@[simp] theorem State.withTts_cpt (x : TableStore) : (s.withTts x).cpt = s.cpt := rfl
@[simp] theorem State.withTts_mdc (x : TableStore) : (s.withTts x).mdc = s.mdc := rfl

/-! ### withStk -/

@[simp] theorem State.withStk_pending (x : Engine) : (s.withStk x).pending = s.pending := rfl
@[simp] theorem State.withStk_trx (x : Engine) : (s.withStk x).trx = s.trx := rfl
@[simp] theorem State.withStk_ccu (x : Engine) : (s.withStk x).ccu = s.ccu := rfl
@[simp] theorem State.withStk_tbu (x : Engine) : (s.withStk x).tbu = s.tbu := rfl
@[simp] theorem State.withStk_tts (x : Engine) : (s.withStk x).tts = s.tts := rfl
@[simp] theorem State.withStk_stk (x : Engine) : (s.withStk x).stk = x := rfl
@[simp] theorem State.withStk_evb (x : Engine) : (s.withStk x).evb = s.evb := rfl
@[simp] theorem State.withStk_exu (x : Engine) : (s.withStk x).exu = s.exu := rfl
@[simp] theorem State.withStk_rpq (x : Engine) : (s.withStk x).rpq = s.rpq := rfl
@[simp] theorem State.withStk_cpt (x : Engine) : (s.withStk x).cpt = s.cpt := rfl
@[simp] theorem State.withStk_mdc (x : Engine) : (s.withStk x).mdc = s.mdc := rfl

/-! ### withEvb -/

@[simp] theorem State.withEvb_pending (x : Builder) : (s.withEvb x).pending = s.pending := rfl
@[simp] theorem State.withEvb_trx (x : Builder) : (s.withEvb x).trx = s.trx := rfl
@[simp] theorem State.withEvb_ccu (x : Builder) : (s.withEvb x).ccu = s.ccu := rfl
@[simp] theorem State.withEvb_tbu (x : Builder) : (s.withEvb x).tbu = s.tbu := rfl
@[simp] theorem State.withEvb_tts (x : Builder) : (s.withEvb x).tts = s.tts := rfl
@[simp] theorem State.withEvb_stk (x : Builder) : (s.withEvb x).stk = s.stk := rfl
@[simp] theorem State.withEvb_evb (x : Builder) : (s.withEvb x).evb = x := rfl
@[simp] theorem State.withEvb_exu (x : Builder) : (s.withEvb x).exu = s.exu := rfl
@[simp] theorem State.withEvb_rpq (x : Builder) : (s.withEvb x).rpq = s.rpq := rfl
@[simp] theorem State.withEvb_cpt (x : Builder) : (s.withEvb x).cpt = s.cpt := rfl
@[simp] theorem State.withEvb_mdc (x : Builder) : (s.withEvb x).mdc = s.mdc := rfl

/-! ### withExu -/

@[simp] theorem State.withExu_pending (x : ExcerptUnit) : (s.withExu x).pending = s.pending := rfl
@[simp] theorem State.withExu_trx (x : ExcerptUnit) : (s.withExu x).trx = s.trx := rfl
@[simp] theorem State.withExu_ccu (x : ExcerptUnit) : (s.withExu x).ccu = s.ccu := rfl
@[simp] theorem State.withExu_tbu (x : ExcerptUnit) : (s.withExu x).tbu = s.tbu := rfl
@[simp] theorem State.withExu_tts (x : ExcerptUnit) : (s.withExu x).tts = s.tts := rfl
@[simp] theorem State.withExu_stk (x : ExcerptUnit) : (s.withExu x).stk = s.stk := rfl
@[simp] theorem State.withExu_evb (x : ExcerptUnit) : (s.withExu x).evb = s.evb := rfl
@[simp] theorem State.withExu_exu (x : ExcerptUnit) : (s.withExu x).exu = x := rfl
@[simp] theorem State.withExu_rpq (x : ExcerptUnit) : (s.withExu x).rpq = s.rpq := rfl
@[simp] theorem State.withExu_cpt (x : ExcerptUnit) : (s.withExu x).cpt = s.cpt := rfl
@[simp] theorem State.withExu_mdc (x : ExcerptUnit) : (s.withExu x).mdc = s.mdc := rfl

/-! ### withRpq -/

@[simp] theorem State.withRpq_pending (x : Reports) : (s.withRpq x).pending = s.pending := rfl
@[simp] theorem State.withRpq_trx (x : Reports) : (s.withRpq x).trx = s.trx := rfl
@[simp] theorem State.withRpq_ccu (x : Reports) : (s.withRpq x).ccu = s.ccu := rfl
@[simp] theorem State.withRpq_tbu (x : Reports) : (s.withRpq x).tbu = s.tbu := rfl
@[simp] theorem State.withRpq_tts (x : Reports) : (s.withRpq x).tts = s.tts := rfl
@[simp] theorem State.withRpq_stk (x : Reports) : (s.withRpq x).stk = s.stk := rfl
@[simp] theorem State.withRpq_evb (x : Reports) : (s.withRpq x).evb = s.evb := rfl
@[simp] theorem State.withRpq_exu (x : Reports) : (s.withRpq x).exu = s.exu := rfl
@[simp] theorem State.withRpq_rpq (x : Reports) : (s.withRpq x).rpq = x := rfl
@[simp] theorem State.withRpq_cpt (x : Reports) : (s.withRpq x).cpt = s.cpt := rfl
@[simp] theorem State.withRpq_mdc (x : Reports) : (s.withRpq x).mdc = s.mdc := rfl

/-! ### withCpt -/

@[simp] theorem State.withCpt_pending (x : ControlPort) : (s.withCpt x).pending = s.pending := rfl
@[simp] theorem State.withCpt_trx (x : ControlPort) : (s.withCpt x).trx = s.trx := rfl
@[simp] theorem State.withCpt_ccu (x : ControlPort) : (s.withCpt x).ccu = s.ccu := rfl
@[simp] theorem State.withCpt_tbu (x : ControlPort) : (s.withCpt x).tbu = s.tbu := rfl
@[simp] theorem State.withCpt_tts (x : ControlPort) : (s.withCpt x).tts = s.tts := rfl
@[simp] theorem State.withCpt_stk (x : ControlPort) : (s.withCpt x).stk = s.stk := rfl
@[simp] theorem State.withCpt_evb (x : ControlPort) : (s.withCpt x).evb = s.evb := rfl
@[simp] theorem State.withCpt_exu (x : ControlPort) : (s.withCpt x).exu = s.exu := rfl
@[simp] theorem State.withCpt_rpq (x : ControlPort) : (s.withCpt x).rpq = s.rpq := rfl
@[simp] theorem State.withCpt_cpt (x : ControlPort) : (s.withCpt x).cpt = x := rfl
@[simp] theorem State.withCpt_mdc (x : ControlPort) : (s.withCpt x).mdc = s.mdc := rfl

/-! ### withMdc -/

@[simp] theorem State.withMdc_pending (x : ModeController) : (s.withMdc x).pending = s.pending := rfl
@[simp] theorem State.withMdc_trx (x : ModeController) : (s.withMdc x).trx = s.trx := rfl
@[simp] theorem State.withMdc_ccu (x : ModeController) : (s.withMdc x).ccu = s.ccu := rfl
@[simp] theorem State.withMdc_tbu (x : ModeController) : (s.withMdc x).tbu = s.tbu := rfl
@[simp] theorem State.withMdc_tts (x : ModeController) : (s.withMdc x).tts = s.tts := rfl
@[simp] theorem State.withMdc_stk (x : ModeController) : (s.withMdc x).stk = s.stk := rfl
@[simp] theorem State.withMdc_evb (x : ModeController) : (s.withMdc x).evb = s.evb := rfl
@[simp] theorem State.withMdc_exu (x : ModeController) : (s.withMdc x).exu = s.exu := rfl
@[simp] theorem State.withMdc_rpq (x : ModeController) : (s.withMdc x).rpq = s.rpq := rfl
@[simp] theorem State.withMdc_cpt (x : ModeController) : (s.withMdc x).cpt = s.cpt := rfl
@[simp] theorem State.withMdc_mdc (x : ModeController) : (s.withMdc x).mdc = x := rfl

/-! ### onTrunk -/

@[simp] theorem State.onTrunk_pending (t : Fin 6) (f : Trunk → Trunk) : (s.onTrunk t f).pending = s.pending := rfl
@[simp] theorem State.onTrunk_ccu (t : Fin 6) (f : Trunk → Trunk) : (s.onTrunk t f).ccu = s.ccu := rfl
@[simp] theorem State.onTrunk_tbu (t : Fin 6) (f : Trunk → Trunk) : (s.onTrunk t f).tbu = s.tbu := rfl
@[simp] theorem State.onTrunk_tts (t : Fin 6) (f : Trunk → Trunk) : (s.onTrunk t f).tts = s.tts := rfl
@[simp] theorem State.onTrunk_stk (t : Fin 6) (f : Trunk → Trunk) : (s.onTrunk t f).stk = s.stk := rfl
@[simp] theorem State.onTrunk_evb (t : Fin 6) (f : Trunk → Trunk) : (s.onTrunk t f).evb = s.evb := rfl
@[simp] theorem State.onTrunk_exu (t : Fin 6) (f : Trunk → Trunk) : (s.onTrunk t f).exu = s.exu := rfl
@[simp] theorem State.onTrunk_rpq (t : Fin 6) (f : Trunk → Trunk) : (s.onTrunk t f).rpq = s.rpq := rfl
@[simp] theorem State.onTrunk_cpt (t : Fin 6) (f : Trunk → Trunk) : (s.onTrunk t f).cpt = s.cpt := rfl
@[simp] theorem State.onTrunk_mdc (t : Fin 6) (f : Trunk → Trunk) : (s.onTrunk t f).mdc = s.mdc := rfl

/-! ### onRegion -/

@[simp] theorem State.onRegion_pending (r : Fin 16) (f : Region → Region) : (s.onRegion r f).pending = s.pending := rfl
@[simp] theorem State.onRegion_trx (r : Fin 16) (f : Region → Region) : (s.onRegion r f).trx = s.trx := rfl
@[simp] theorem State.onRegion_ccu (r : Fin 16) (f : Region → Region) : (s.onRegion r f).ccu = s.ccu := rfl
@[simp] theorem State.onRegion_tbu (r : Fin 16) (f : Region → Region) : (s.onRegion r f).tbu = s.tbu := rfl
@[simp] theorem State.onRegion_tts (r : Fin 16) (f : Region → Region) : (s.onRegion r f).tts = s.tts := rfl
@[simp] theorem State.onRegion_stk (r : Fin 16) (f : Region → Region) : (s.onRegion r f).stk = s.stk := rfl
@[simp] theorem State.onRegion_exu (r : Fin 16) (f : Region → Region) : (s.onRegion r f).exu = s.exu := rfl
@[simp] theorem State.onRegion_rpq (r : Fin 16) (f : Region → Region) : (s.onRegion r f).rpq = s.rpq := rfl
@[simp] theorem State.onRegion_cpt (r : Fin 16) (f : Region → Region) : (s.onRegion r f).cpt = s.cpt := rfl
@[simp] theorem State.onRegion_mdc (r : Fin 16) (f : Region → Region) : (s.onRegion r f).mdc = s.mdc := rfl

/-! ### elapse -/

@[simp] theorem State.elapse_pending (n : Nat) : (s.elapse n).pending = s.pending := rfl
@[simp] theorem State.elapse_trx (n : Nat) : (s.elapse n).trx = s.trx := rfl
@[simp] theorem State.elapse_ccu (n : Nat) : (s.elapse n).ccu = s.ccu := rfl
@[simp] theorem State.elapse_tbu (n : Nat) : (s.elapse n).tbu = s.tbu.elapse n := rfl
@[simp] theorem State.elapse_tts (n : Nat) : (s.elapse n).tts = s.tts.elapse n := rfl
@[simp] theorem State.elapse_stk (n : Nat) : (s.elapse n).stk = s.stk.elapse n := rfl
@[simp] theorem State.elapse_evb (n : Nat) : (s.elapse n).evb = s.evb := rfl
@[simp] theorem State.elapse_exu (n : Nat) : (s.elapse n).exu = s.exu := rfl
@[simp] theorem State.elapse_rpq (n : Nat) : (s.elapse n).rpq = s.rpq := rfl
@[simp] theorem State.elapse_cpt (n : Nat) : (s.elapse n).cpt = s.cpt.elapse n := rfl
@[simp] theorem State.elapse_mdc (n : Nat) : (s.elapse n).mdc = s.mdc := rfl

@[simp] theorem State.onTrunk_same (t : Fin 6) (f : Trunk → Trunk) :
    (s.onTrunk t f).trx[t] = f s.trx[t] := by simp [State.onTrunk]

theorem State.onTrunk_other (t u : Fin 6) (f : Trunk → Trunk) (h : t ≠ u) :
    (s.onTrunk t f).trx[u] = s.trx[u] := by
  have h' : t.val ≠ u.val := fun e => h (Fin.ext e)
  simp [State.onTrunk, h']

@[simp] theorem State.onRegion_same (r : Fin 16) (f : Region → Region) :
    (s.onRegion r f).evb.regions[r] = f s.evb.regions[r] := by simp [State.onRegion]

theorem State.onRegion_other (r q : Fin 16) (f : Region → Region) (h : r ≠ q) :
    (s.onRegion r f).evb.regions[q] = s.evb.regions[q] := by
  have h' : r.val ≠ q.val := fun e => h (Fin.ext e)
  simp [State.onRegion, h']

@[simp] theorem State.onRegion_eventCounter (r : Fin 16) (f : Region → Region) :
    (s.onRegion r f).evb.eventCounter = s.evb.eventCounter := rfl
@[simp] theorem State.onRegion_lostBefore (r : Fin 16) (f : Region → Region) :
    (s.onRegion r f).evb.lostBefore = s.evb.lostBefore := rfl
@[simp] theorem State.onRegion_lostTotal (r : Fin 16) (f : Region → Region) :
    (s.onRegion r f).evb.lostTotal = s.evb.lostTotal := rfl

/-- No time passing changes nothing. -/
@[simp] theorem Timebase.elapse_zero (t : Timebase) : t.elapse 0 = t := rfl
@[simp] theorem Engine.elapse_zero (e : Engine) : e.elapse 0 = e := by
  cases e with | mk o p => cases p <;> rfl
@[simp] theorem TableStore.elapse_zero (t : TableStore) : t.elapse 0 = t := by
  cases t with | mk a b c d e f g r => cases r <;> rfl
@[simp] theorem ControlPort.elapse_zero (c : ControlPort) : c.elapse 0 = c := by
  cases c with | mk l r e w t n => cases r <;> simp [ControlPort.elapse]
@[simp] theorem State.elapse_zero : s.elapse 0 = s := by simp [State.elapse]

end Sys2Proof.Machine
end

