-- ==== Sys2Proof/Laws/Frames.lean ====
section
/-! SUPPORT. Which blocks the operations of the builder, the engine and the arbiter reach. -/

namespace Sys2Proof.Machine

/-- Only the builder, the report queues and the excerpt unit differ. -/
structure Builds (s t : State) : Prop where
  pending : t.pending = s.pending
  trx : t.trx = s.trx
  ccu : t.ccu = s.ccu
  tbu : t.tbu = s.tbu
  tts : t.tts = s.tts
  stk : t.stk = s.stk
  cpt : t.cpt = s.cpt
  mdc : t.mdc = s.mdc

/-- Only the store, the engine, the builder, the report queues and the excerpt unit differ. -/
structure Serves (s t : State) : Prop where
  pending : t.pending = s.pending
  trx : t.trx = s.trx
  ccu : t.ccu = s.ccu
  tbu : t.tbu = s.tbu
  cpt : t.cpt = s.cpt
  mdc : t.mdc = s.mdc

theorem Builds.refl (s : State) : Builds s s := ⟨rfl, rfl, rfl, rfl, rfl, rfl, rfl, rfl⟩

theorem Builds.trans {s t u : State} (h : Builds s t) (k : Builds t u) : Builds s u :=
  ⟨k.1.trans h.1, k.2.trans h.2, k.3.trans h.3, k.4.trans h.4, k.5.trans h.5, k.6.trans h.6,
    k.7.trans h.7, k.8.trans h.8⟩

theorem Serves.refl (s : State) : Serves s s := ⟨rfl, rfl, rfl, rfl, rfl, rfl⟩

theorem Serves.trans {s t u : State} (h : Serves s t) (k : Serves t u) : Serves s u :=
  ⟨k.1.trans h.1, k.2.trans h.2, k.3.trans h.3, k.4.trans h.4, k.5.trans h.5, k.6.trans h.6⟩

theorem Builds.serves {s t : State} (h : Builds s t) : Serves s t := ⟨h.1, h.2, h.3, h.4, h.7, h.8⟩

/-- A fold of steps that each keep the other blocks. -/
theorem Builds.foldl {α : Type} {f : State → α → State} (h : ∀ s a, Builds s (f s a)) (l : List α) :
    ∀ s, Builds s (l.foldl f s) := by
  induction l with
  | nil => exact Builds.refl
  | cons a l ih => exact fun s => (h s a).trans (ih _)

/-! ### The builder -/

theorem State.onRegion_builds (s : State) (r : Fin 16) (f : Region → Region) :
    Builds s (s.onRegion r f) := ⟨rfl, rfl, rfl, rfl, rfl, rfl, rfl, rfl⟩

theorem State.declareEvent_builds (s : State) (r : Fin 16) (reason : CloseReason) (k : Candidate) :
    Builds s (s.declareEvent r reason k) := by
  unfold State.declareEvent
  dsimp only
  split <;> exact ⟨rfl, rfl, rfl, rfl, rfl, rfl, rfl, rfl⟩

theorem State.closeCandidate_builds (s : State) (r : Fin 16) (reason : CloseReason) (k : Candidate) :
    Builds s (s.closeCandidate r reason k) :=
  (s.declareEvent_builds r reason k).trans (State.onRegion_builds _ _ _)

theorem State.closeAll_builds (s : State) (reason : CloseReason) : Builds s (s.closeAll reason) := by
  unfold State.closeAll
  refine Builds.foldl (fun s r => ?_) _ s
  split
  · exact s.closeCandidate_builds r reason _
  · exact Builds.refl s
  · exact Builds.refl s

theorem State.regionOrigin_builds (s : State) (skipped : Bool) (p : PassResult) (r : Fin 16) :
    Builds s (s.regionOrigin skipped p r) := by
  unfold State.regionOrigin State.firingOrigin State.quietOrigin State.keepOpen
  dsimp only
  repeat' split
  all_goals first
    | exact Builds.refl s
    | exact s.onRegion_builds _ _
    | exact s.closeCandidate_builds _ _ _

theorem State.builderOrigin_builds (s : State) (skipped : Bool) (p : PassResult) :
    Builds s (s.builderOrigin skipped p) :=
  Builds.foldl (fun s r => s.regionOrigin_builds skipped p r) _ s

theorem State.skippedOrigins_builds (p : PassResult) (n : Nat) :
    ∀ s, Builds s (State.skippedOrigins p n s) := by
  induction n with
  | zero => exact Builds.refl
  | succ n ih => exact fun s => (s.builderOrigin_builds true p).trans (ih _)

theorem State.takePassResult_builds (s : State) (p : PassResult) : Builds s (s.takePassResult p) :=
  (State.skippedOrigins_builds p _ s).trans (State.builderOrigin_builds _ _ _)

/-! ### The excerpt unit -/

theorem State.take_builds (s : State) : Builds s s.take := by
  unfold State.take
  split
  · exact Builds.refl s
  · rename_i j _ _
    generalize s.build j = b
    exact ⟨rfl, rfl, rfl, rfl, rfl, rfl, rfl, rfl⟩

theorem State.takeAll_builds (n : Nat) : ∀ s, Builds s (State.takeAll n s) := by
  induction n with
  | zero => exact Builds.refl
  | succ n ih =>
    intro s
    simp only [State.takeAll]
    split
    · exact s.take_builds.trans (ih _)
    · exact Builds.refl s

/-! ### The arbiter and the engine -/

theorem State.withTts_serves (s : State) (x : TableStore) : Serves s (s.withTts x) :=
  ⟨rfl, rfl, rfl, rfl, rfl, rfl⟩

theorem State.withStk_serves (s : State) (x : Engine) : Serves s (s.withStk x) :=
  ⟨rfl, rfl, rfl, rfl, rfl, rfl⟩

theorem State.swap_eq (s : State) : s.swap =
    ((s.withTts { s.tts with active := s.tts.active.other, swapPending := false }).closeAll .table).withStk
      (((s.withTts { s.tts with active := s.tts.active.other, swapPending := false }).closeAll .table).stk.swapNotice
        ((s.withTts { s.tts with active := s.tts.active.other, swapPending := false }).closeAll
          .table).tts.activeBank.count) := rfl

theorem State.swap_serves (s : State) : Serves s s.swap := by
  rw [State.swap_eq]
  exact ((s.withTts_serves _).trans (State.closeAll_builds _ .table).serves).trans
    (State.withStk_serves _ _)

@[simp] theorem State.swap_tts (s : State) :
    s.swap.tts = { s.tts with active := s.tts.active.other, swapPending := false } := by
  rw [State.swap_eq, State.withStk_tts, (State.closeAll_builds _ .table).tts, State.withTts_tts]

theorem State.startRound_serves (s : State) : Serves s s.startRound := by
  unfold State.startRound
  have h : Serves s (if s.tts.swapPending then s.swap else s) := by
    split
    · exact s.swap_serves
    · exact Serves.refl s
  exact h.trans (State.withTts_serves _ _)

theorem State.serveIdle_serves (s : State) : Serves s s.serveIdle := by
  unfold State.serveIdle
  split
  · exact s.startRound_serves
  · exact Serves.refl s

/-- A round takes up all that waits, and stays in progress where a grant of it takes time. -/
@[simp] theorem State.startRound_roundDue (s : State) : s.startRound.roundDue = false := by
  have h : ∀ u : State, u.tts.swapPending = false →
      ({ u with tts := u.tts.reachRead } : State).roundDue = false := by
    intro u hu
    unfold State.roundDue State.arbiterIdle TableStore.waits TableStore.reachRead TableStore.reachSlice
    cases u.tts.waitingRead with
    | some r => simp
    | none =>
      cases u.tts.copy with
      | some c => simp
      | none => simp [hu]
  unfold State.startRound
  by_cases hs : s.tts.swapPending
  · rw [if_pos hs]; exact h _ (by rw [State.swap_tts])
  · rw [if_neg hs]; exact h _ (by simpa using hs)

/-- With the idle round granted, none is due. -/
@[simp] theorem State.serveIdle_roundDue (s : State) : s.serveIdle.roundDue = false := by
  unfold State.serveIdle
  split
  · exact s.startRound_roundDue
  · rename_i h; simpa using h

theorem State.serveIdle_of_not_due {s : State} (h : s.roundDue = false) : s.serveIdle = s := by
  simp [State.serveIdle, h]

theorem State.endSlice_serves (s : State) : Serves s s.endSlice :=
  (s.withTts_serves _).trans (State.serveIdle_serves _)

theorem State.grantRead_serves (s : State) : Serves s s.grantRead :=
  (s.withTts_serves _).trans (State.serveIdle_serves _)

theorem State.completeBlock_serves (s : State) (o : Nat) : Serves s (s.completeBlock o) := by
  unfold State.completeBlock
  split
  · exact Serves.refl s
  · dsimp only
    split <;> exact ⟨rfl, rfl, rfl, rfl, rfl, rfl⟩

theorem State.offerTap_serves (s : State) (p : PassContext) (r : PassResult) (v : TapValue) :
    Serves s (s.offerTap p r v) := by
  unfold State.offerTap
  split
  · dsimp only
    split
    · exact (s.withStk_serves _).trans (State.completeBlock_serves _ _)
    · exact s.withStk_serves _
  · exact Serves.refl s

theorem State.finishPass_serves (s : State) (p : PassContext) : Serves s (s.finishPass p) :=
  ((s.takePassResult_builds _).serves.trans (State.offerTap_serves _ _ _ _)).trans
    (State.withStk_serves _ _)

theorem State.endPass_serves (s : State) : Serves s s.endPass := by
  unfold State.endPass
  split
  · exact Serves.refl s
  · exact (s.finishPass_serves _).trans (State.startRound_serves _)

theorem State.startPass_serves (s : State) : Serves s s.startPass := by
  unfold State.startPass
  split
  · exact Serves.refl s
  · exact ⟨rfl, rfl, rfl, rfl, rfl, rfl⟩

/-! ### START and STOP -/

/-- START in its order, what comes before it apart. -/
theorem State.startRun_eq (s : State) :
    s.startRun = ((((s.withMdc { mode := .priming, countdown := primingCount s.ccu.ltaShift }).withExu
      s.exu.discardAll).withCcu s.ccu.start).withStk s.stk.clearRun).withEvb s.evb.start := by
  simp only [State.startRun, State.withMdc, State.withExu, State.withCcu, State.withStk, State.withEvb]

/-- STOP in its order: the mode, the engine, the conditioner and the store, then the closes, then the jobs
forced. -/
theorem State.stopRun_eq (s : State) : ∃ u : State,
    u = (((s.withMdc { mode := .standby, countdown := 0 }).withStk s.stk.clearRun).withCcu
      { s.ccu with stage := .none }).withTts s.tts.stop
    ∧ s.stopRun = (u.closeAll .stopped).withExu (u.closeAll .stopped).exu.forceAll := by
  refine ⟨_, rfl, ?_⟩
  simp only [State.stopRun, State.withMdc, State.withStk, State.withCcu, State.withTts, State.withExu]

end Sys2Proof.Machine
end

