-- ==== Sys2Proof/Laws/Memory.lean ====
section
/-! SUPPORT. The laws of addressed storage: a read after a write at the same and at another address, and
that a write keeps the canonical form. -/

namespace Sys2Proof.Machine

variable {α : Type} {d : α}

@[simp] theorem Memory.read_empty (a : Nat) : Memory.read d [] a = d := rfl

theorem Memory.wf_empty : Memory.wf d ([] : Memory α) := by simp [Memory.wf]

theorem Memory.wf_tail {c : Nat × α} {m : Memory α} (h : Memory.wf d (c :: m)) : Memory.wf d m :=
  ⟨(List.pairwise_cons.mp h.1).2, fun x hx => h.2 x (List.mem_cons_of_mem _ hx)⟩

/-- Below every listed address a storage in canonical form reads as an unlisted address does. -/
theorem Memory.read_below {m : Memory α} {a : Nat} (h : ∀ c ∈ m, a < c.1) : Memory.read d m a = d := by
  induction m with
  | nil => rfl
  | cons c m ih =>
    have hc : c.1 ≠ a := by have := h c List.mem_cons_self; omega
    simp only [Memory.read, hc, if_false]
    exact ih fun x hx => h x (List.mem_cons_of_mem _ hx)

section
variable [DecidableEq α]

/-- An address listed after a write was listed before, or is the one written. -/
theorem Memory.mem_write {m : Memory α} {a : Nat} {v : α} {c : Nat × α} (h : c ∈ Memory.write d m a v) :
    c ∈ m ∨ c.1 = a ∧ c.2 ≠ d := by
  induction m with
  | nil =>
    simp only [Memory.write] at h
    split at h
    · simp at h
    · rename_i hv; simp only [List.mem_singleton] at h; subst h; exact .inr ⟨rfl, hv⟩
  | cons k m ih =>
    simp only [Memory.write] at h
    split at h
    · split at h
      · exact .inl h
      · rename_i hv
        rcases List.mem_cons.mp h with rfl | h
        · exact .inr ⟨rfl, hv⟩
        · exact .inl h
    · split at h
      · split at h
        · exact .inl (List.mem_cons_of_mem _ h)
        · rename_i hv
          rcases List.mem_cons.mp h with rfl | h
          · exact .inr ⟨rfl, hv⟩
          · exact .inl (List.mem_cons_of_mem _ h)
      · rcases List.mem_cons.mp h with rfl | h
        · exact .inl List.mem_cons_self
        · exact (ih h).imp_left (List.mem_cons_of_mem _)

/-- A write keeps the canonical form. -/
theorem Memory.wf_write {m : Memory α} (h : Memory.wf d m) (a : Nat) (v : α) :
    Memory.wf d (Memory.write d m a v) := by
  refine ⟨?_, fun c hc => (Memory.mem_write hc).elim (h.2 c) (·.2)⟩
  induction m with
  | nil => simp only [Memory.write]; split <;> simp
  | cons k m ih =>
    have ht := Memory.wf_tail h
    have hk := (List.pairwise_cons.mp h.1).1
    simp only [Memory.write]
    split
    · rename_i hlt
      split
      · exact h.1
      · refine List.pairwise_cons.mpr ⟨fun x hx => ?_, h.1⟩
        rcases List.mem_cons.mp hx with rfl | hx
        · exact hlt
        · exact Nat.lt_trans hlt (hk x hx)
    · split
      · rename_i _ heq
        split
        · exact ht.1
        · exact List.pairwise_cons.mpr ⟨fun x hx => heq ▸ hk x hx, ht.1⟩
      · rename_i hlt hne
        refine List.pairwise_cons.mpr ⟨fun x hx => ?_, ih ht⟩
        rcases Memory.mem_write hx with hx | ⟨hx, -⟩
        · exact hk x hx
        · show k.1 < x.1
          rw [hx]; exact Nat.lt_of_le_of_ne (Nat.le_of_not_lt hlt) (Ne.symm hne)

/-- A read of the address written gives the value written. -/
theorem Memory.read_write_same {m : Memory α} (h : Memory.wf d m) (a : Nat) (v : α) :
    Memory.read d (Memory.write d m a v) a = v := by
  induction m with
  | nil => simp only [Memory.write]; split <;> simp_all [Memory.read]
  | cons k m ih =>
    have ht := Memory.wf_tail h
    have hk := (List.pairwise_cons.mp h.1).1
    obtain ⟨k, w⟩ := k
    simp only [Memory.write]
    split
    · rename_i hlt
      split
      · rename_i hv
        rw [Memory.read_below, hv]
        intro x hx
        rcases List.mem_cons.mp hx with rfl | hx
        · exact hlt
        · exact Nat.lt_trans hlt (hk x hx)
      · simp [Memory.read]
    · split
      · rename_i _ heq
        split
        · rename_i hv
          rw [Memory.read_below, hv]
          exact fun x hx => heq ▸ hk x hx
        · simp [Memory.read]
      · rename_i hne
        simp only [Memory.read, Ne.symm hne, if_false]
        exact ih ht

/-- A read of any other address gives what it gave before. -/
theorem Memory.read_write_other (m : Memory α) {a b : Nat} (v : α) (hab : b ≠ a) :
    Memory.read d (Memory.write d m a v) b = Memory.read d m b := by
  induction m with
  | nil => simp only [Memory.write]; split <;> simp [Memory.read, Ne.symm hab]
  | cons k m ih =>
    obtain ⟨k, w⟩ := k
    simp only [Memory.write]
    split
    · split
      · rfl
      · simp only [Memory.read, Ne.symm hab, if_false]
    · split
      · rename_i _ heq
        split <;> simp [Memory.read, Ne.symm hab, ← heq]
      · simp only [Memory.read, ih]

end

end Sys2Proof.Machine
end

