-- ==== Sys2Proof/Laws/Conditioner.lean ====
section
/-! SUPPORT. The part's own events at their instants, and what a handover and a tick completion make of one
channel. -/

namespace Sys2Proof.Machine

/-! ### Events of the part's own -/

/-- An event that comes in n cycles is taken n cycles from now. -/
theorem State.comeAbout_of_comesIn {s : State} {e : Instr} {n : Nat} (h : s.comesIn e n)
    (take : State → State) : s.comeAbout e take = take (s.elapse n) := by
  simp [State.comeAbout, State.serveIdle_of_not_due h.2.2, h.1, h.2.1]

/-- Nothing falls due before this instant. -/
@[simp] theorem State.quietFor_zero (s : State) : s.quietFor 0 = true := by
  simp only [State.quietFor, List.all_eq_true]
  intro e _
  split <;> simp

/-- An event that is due comes at once. -/
theorem State.comesIn_zero {s : State} {e : Instr} (h : s.dueIn e = some 0) (hr : s.roundDue = false) :
    s.comesIn e 0 :=
  ⟨h, s.quietFor_zero, hr⟩

theorem State.comeAbout_of_due {s : State} {e : Instr} (h : s.dueIn e = some 0) (hr : s.roundDue = false)
    (take : State → State) : s.comeAbout e take = take s := by
  rw [State.comeAbout_of_comesIn (State.comesIn_zero h hr), State.elapse_zero]

/-- A round that is due is granted before an event of the part's own. -/
theorem State.comeAbout_of_roundDue {s : State} (h : s.roundDue = true) (e : Instr) (take : State → State) :
    s.comeAbout e take = s.startRound.comeAbout e take := by
  have h1 : s.serveIdle = s.startRound := by simp [State.serveIdle, h]
  simp only [State.comeAbout, h1, State.serveIdle_of_not_due s.startRound_roundDue]

/-- What an event of the part's own can do: no more than the round that is due, or, after that round, its
taking at the instant at which it falls due. -/
theorem State.comeAbout_cases (s : State) (e : Instr) (take : State → State) :
    s.comeAbout e take = s.serveIdle
      ∨ ∃ n, s.serveIdle.comesIn e n ∧ s.comeAbout e take = take (s.serveIdle.elapse n) := by
  simp only [State.comeAbout]
  split
  · exact .inl rfl
  · split
    · rename_i n hn hq; exact .inr ⟨n, ⟨hn, hq, s.serveIdle_roundDue⟩, rfl⟩
    · exact .inl rfl

/-- Within the time that passes up to an event, no other event of the part's own falls due. -/
theorem State.le_of_quietFor {s : State} {n d : Nat} {e : Instr} (h : s.quietFor n = true)
    (he : e ∈ ownEvents) (hd : s.dueIn e = some d) : n ≤ d := by
  simp only [State.quietFor, List.all_eq_true] at h
  have := h e he
  rw [hd] at this
  simpa using this

/-! ### One channel of all -/

@[simp] theorem Conditioner.eachChannel_channel (c : Conditioner) (f : Fin 48 → Channel → Channel)
    (k : Fin 48) : (c.eachChannel f).channels[k] = f k c.channels[k] := by
  simp [Conditioner.eachChannel]

@[simp] theorem Conditioner.eachChannel_openEpoch (c : Conditioner) (f : Fin 48 → Channel → Channel) :
    (c.eachChannel f).openEpoch = c.openEpoch := by
  simp only [Conditioner.eachChannel]
@[simp] theorem Conditioner.eachChannel_newestEpoch (c : Conditioner) (f : Fin 48 → Channel → Channel) :
    (c.eachChannel f).newestEpoch = c.newestEpoch := by
  simp only [Conditioner.eachChannel]
@[simp] theorem Conditioner.eachChannel_tickCount (c : Conditioner) (f : Fin 48 → Channel → Channel) :
    (c.eachChannel f).tickCount = c.tickCount := by
  simp only [Conditioner.eachChannel]
@[simp] theorem Conditioner.eachChannel_tickLabel (c : Conditioner) (f : Fin 48 → Channel → Channel) :
    (c.eachChannel f).tickLabel = c.tickLabel := by
  simp only [Conditioner.eachChannel]
@[simp] theorem Conditioner.eachChannel_labelRing (c : Conditioner) (f : Fin 48 → Channel → Channel) :
    (c.eachChannel f).labelRing = c.labelRing := by
  simp only [Conditioner.eachChannel]
@[simp] theorem Conditioner.eachChannel_stage (c : Conditioner) (f : Fin 48 → Channel → Channel) :
    (c.eachChannel f).stage = c.stage := by
  simp only [Conditioner.eachChannel]
@[simp] theorem Conditioner.eachChannel_dec (c : Conditioner) (f : Fin 48 → Channel → Channel) :
    (c.eachChannel f).dec = c.dec := by
  simp only [Conditioner.eachChannel, Conditioner.dec]

/-- The handover of a numbered epoch of a run. -/
theorem Conditioner.handover_numbered {m : Mode} {c : Conditioner} {epoch : Nat} (hm : m ≠ .standby)
    (ho : c.openEpoch = some epoch) (samples : Fin 48 → Option (Int × Bool)) (l : Label) :
    c.handover m samples l =
      { c.eachChannel (fun k ch => ch.handover epoch (epoch % c.dec = 0) (samples k)) with
        openEpoch := some (epoch + 1)
        newestEpoch := some epoch
        tickLabel := c.nextTickLabel epoch l
        stage := if epoch % c.dec + 1 = c.dec then .completion else c.stage } := by
  cases m <;> simp_all [Conditioner.handover]

/-- Outside a run, and for the unnumbered epoch, a handover applies pending enables alone. -/
theorem Conditioner.handover_unnumbered {m : Mode} {c : Conditioner}
    (h : m = .standby ∨ c.openEpoch = none) (samples : Fin 48 → Option (Int × Bool)) (l : Label) :
    (c.handover m samples l).newestEpoch = c.newestEpoch
      ∧ (c.handover m samples l).tickCount = c.tickCount
      ∧ (c.handover m samples l).stage = c.stage
      ∧ (c.handover m samples l).tickLabel = c.tickLabel
      ∧ (c.handover m samples l).labelRing = c.labelRing
      ∧ ∀ k : Fin 48, (c.handover m samples l).channels[k] = c.channels[k].applyEnable := by
  rcases h with h | h <;> cases m <;> simp_all [Conditioner.handover, Conditioner.eachChannel]

/-- A slot gives a new sample exactly where it is complete (R8). -/
theorem Trunk.sample_isSome_iff (t : Trunk) (i : Nat) (hi : i < 8) :
    (t.sample i).isSome = true ↔ t.slotComplete i := by
  unfold Trunk.sample Trunk.newSlots Trunk.slotComplete
  cases t.state <;> simp <;> omega

theorem Trunk.sample_of_complete {t : Trunk} {i : Nat} (hi : i < 8) (h : t.slotComplete i) :
    t.sample i = some (t.slotValue i, t.slotClip i) := by
  have hs := (t.sample_isSome_iff i hi).mpr h
  unfold Trunk.sample at hs ⊢
  split <;> simp_all [Trunk.slotValue, Trunk.slotClip]

theorem Trunk.sample_of_incomplete {t : Trunk} {i : Nat} (hi : i < 8) (h : ¬ t.slotComplete i) :
    t.sample i = none := by
  have hs := mt (t.sample_isSome_iff i hi).mp h
  simpa using hs

/-! ### The steps of one channel's handover -/

section
variable (c : Channel)

/-- A pending change of the enabled field reaches the state and the two runs alone (R16). -/
theorem Channel.applyEnable_eq :
    ∃ st g h, c.applyEnable = { c with state := st, goodRun := g, heldRun := h } := by
  unfold Channel.applyEnable
  split
  · exact ⟨_, _, _, rfl⟩
  · split <;> exact ⟨_, _, _, rfl⟩

/-- A state step reaches the state, the two runs and the stale count alone (R15). -/
theorem Channel.stepState_eq (b : Bool) :
    ∃ h g st n, c.stepState b = { c with heldRun := h, goodRun := g, state := st, staleCount := n } := by
  unfold Channel.stepState
  dsimp only
  split
  · exact ⟨_, _, _, _, rfl⟩
  · exact ⟨_, _, _, _, rfl⟩
  · split <;> split <;> exact ⟨_, _, _, _, rfl⟩
  all_goals exact ⟨_, _, _, _, rfl⟩

@[simp] theorem Channel.applyEnable_record : c.applyEnable.record = c.record := by
  obtain ⟨_, _, _, h⟩ := c.applyEnable_eq; rw [h]
@[simp] theorem Channel.applyEnable_last : c.applyEnable.last = c.last := by
  obtain ⟨_, _, _, h⟩ := c.applyEnable_eq; rw [h]
@[simp] theorem Channel.applyEnable_rawRing : c.applyEnable.rawRing = c.rawRing := by
  obtain ⟨_, _, _, h⟩ := c.applyEnable_eq; rw [h]
@[simp] theorem Channel.applyEnable_cfRing : c.applyEnable.cfRing = c.cfRing := by
  obtain ⟨_, _, _, h⟩ := c.applyEnable_eq; rw [h]
@[simp] theorem Channel.applyEnable_sta : c.applyEnable.sta = c.sta := by
  obtain ⟨_, _, _, h⟩ := c.applyEnable_eq; rw [h]
@[simp] theorem Channel.applyEnable_lta : c.applyEnable.lta = c.lta := by
  obtain ⟨_, _, _, h⟩ := c.applyEnable_eq; rw [h]
@[simp] theorem Channel.applyEnable_heldCount : c.applyEnable.heldCount = c.heldCount := by
  obtain ⟨_, _, _, h⟩ := c.applyEnable_eq; rw [h]
@[simp] theorem Channel.applyEnable_clipCount : c.applyEnable.clipCount = c.clipCount := by
  obtain ⟨_, _, _, h⟩ := c.applyEnable_eq; rw [h]
@[simp] theorem Channel.applyEnable_saturationCount : c.applyEnable.saturationCount = c.saturationCount := by
  obtain ⟨_, _, _, h⟩ := c.applyEnable_eq; rw [h]
@[simp] theorem Channel.applyEnable_staleCount : c.applyEnable.staleCount = c.staleCount := by
  obtain ⟨_, _, _, h⟩ := c.applyEnable_eq; rw [h]
@[simp] theorem Channel.applyEnable_envelopeSum : c.applyEnable.envelopeSum = c.envelopeSum := by
  obtain ⟨_, _, _, h⟩ := c.applyEnable_eq; rw [h]
@[simp] theorem Channel.applyEnable_heldInTick : c.applyEnable.heldInTick = c.heldInTick := by
  obtain ⟨_, _, _, h⟩ := c.applyEnable_eq; rw [h]
@[simp] theorem Channel.applyEnable_liveThroughout :
    c.applyEnable.liveThroughout = c.liveThroughout := by
  obtain ⟨_, _, _, h⟩ := c.applyEnable_eq; rw [h]

/-- After a pending change is applied, a channel is in service exactly if its record is enabled (R16). -/
theorem Channel.applyEnable_inService : c.applyEnable.inService = c.record.enabled := by
  unfold Channel.applyEnable Channel.inService
  split
  · simp_all
  · split
    · simp_all
    · cases h : c.record.enabled <;> simp_all

@[simp] theorem Channel.stepState_record (b : Bool) : (c.stepState b).record = c.record := by
  obtain ⟨_, _, _, _, h⟩ := c.stepState_eq b; rw [h]
@[simp] theorem Channel.stepState_last (b : Bool) : (c.stepState b).last = c.last := by
  obtain ⟨_, _, _, _, h⟩ := c.stepState_eq b; rw [h]
@[simp] theorem Channel.stepState_rawRing (b : Bool) : (c.stepState b).rawRing = c.rawRing := by
  obtain ⟨_, _, _, _, h⟩ := c.stepState_eq b; rw [h]
@[simp] theorem Channel.stepState_cfRing (b : Bool) : (c.stepState b).cfRing = c.cfRing := by
  obtain ⟨_, _, _, _, h⟩ := c.stepState_eq b; rw [h]
@[simp] theorem Channel.stepState_sta (b : Bool) : (c.stepState b).sta = c.sta := by
  obtain ⟨_, _, _, _, h⟩ := c.stepState_eq b; rw [h]
@[simp] theorem Channel.stepState_lta (b : Bool) : (c.stepState b).lta = c.lta := by
  obtain ⟨_, _, _, _, h⟩ := c.stepState_eq b; rw [h]
@[simp] theorem Channel.stepState_heldCount (b : Bool) : (c.stepState b).heldCount = c.heldCount := by
  obtain ⟨_, _, _, _, h⟩ := c.stepState_eq b; rw [h]
@[simp] theorem Channel.stepState_clipCount (b : Bool) : (c.stepState b).clipCount = c.clipCount := by
  obtain ⟨_, _, _, _, h⟩ := c.stepState_eq b; rw [h]
@[simp] theorem Channel.stepState_saturationCount (b : Bool) :
    (c.stepState b).saturationCount = c.saturationCount := by
  obtain ⟨_, _, _, _, h⟩ := c.stepState_eq b; rw [h]
@[simp] theorem Channel.stepState_envelopeSum (b : Bool) :
    (c.stepState b).envelopeSum = c.envelopeSum := by
  obtain ⟨_, _, _, _, h⟩ := c.stepState_eq b; rw [h]
@[simp] theorem Channel.stepState_heldInTick (b : Bool) :
    (c.stepState b).heldInTick = c.heldInTick := by
  obtain ⟨_, _, _, _, h⟩ := c.stepState_eq b; rw [h]
@[simp] theorem Channel.stepState_liveThroughout (b : Bool) :
    (c.stepState b).liveThroughout = c.liveThroughout := by
  obtain ⟨_, _, _, _, h⟩ := c.stepState_eq b; rw [h]

@[simp] theorem Channel.takeSample_state (e : Nat) (x : Option (Int × Bool)) :
    (c.takeSample e x).state = c.state := by cases x <;> rfl
@[simp] theorem Channel.takeSample_record (e : Nat) (x : Option (Int × Bool)) :
    (c.takeSample e x).record = c.record := by cases x <;> rfl
@[simp] theorem Channel.takeSample_heldRun (e : Nat) (x : Option (Int × Bool)) :
    (c.takeSample e x).heldRun = c.heldRun := by cases x <;> rfl
@[simp] theorem Channel.takeSample_goodRun (e : Nat) (x : Option (Int × Bool)) :
    (c.takeSample e x).goodRun = c.goodRun := by cases x <;> rfl
@[simp] theorem Channel.takeSample_staleCount (e : Nat) (x : Option (Int × Bool)) :
    (c.takeSample e x).staleCount = c.staleCount := by cases x <;> rfl
@[simp] theorem Channel.takeSample_cfRing (e : Nat) (x : Option (Int × Bool)) :
    (c.takeSample e x).cfRing = c.cfRing := by cases x <;> rfl
@[simp] theorem Channel.takeSample_sta (e : Nat) (x : Option (Int × Bool)) :
    (c.takeSample e x).sta = c.sta := by cases x <;> rfl
@[simp] theorem Channel.takeSample_lta (e : Nat) (x : Option (Int × Bool)) :
    (c.takeSample e x).lta = c.lta := by cases x <;> rfl
@[simp] theorem Channel.takeSample_envelopeSum (e : Nat) (x : Option (Int × Bool)) :
    (c.takeSample e x).envelopeSum = c.envelopeSum := by cases x <;> rfl
@[simp] theorem Channel.takeSample_heldInTick (e : Nat) (x : Option (Int × Bool)) :
    (c.takeSample e x).heldInTick = c.heldInTick := by cases x <;> rfl
@[simp] theorem Channel.takeSample_liveThroughout (e : Nat) (x : Option (Int × Bool)) :
    (c.takeSample e x).liveThroughout = c.liveThroughout := by cases x <;> rfl

/-- The ring after a handover: the entry of the epoch written, and no other. -/
theorem Channel.takeSample_rawRing (e : Nat) (x : Option (Int × Bool)) :
    (c.takeSample e x).rawRing = Memory.write .cleared c.rawRing (e % 4096)
      { value := c.valueOf x, held := x.isNone, clip := (x.map (·.2)).getD false } := by
  cases x with
  | none => rfl
  | some p => cases p; rfl

end

end Sys2Proof.Machine
end

