-- ==== Sys2Proof/Laws/Epoch.lean ====
section
/-! SUPPORT. What the epoch event makes of the conditioner: the blocks an index reaches, and one channel of the
handover of a numbered epoch. -/

namespace Sys2Proof.Machine

/-! ### The passing of time -/

section
variable (s : State) (n : Nat)

@[simp] theorem State.elapse_mode : (s.elapse n).mode = s.mode := rfl
@[simp] theorem State.elapse_sampleOf : (s.elapse n).sampleOf = s.sampleOf := rfl
@[simp] theorem Timebase.elapse_label (t : Timebase) : (t.elapse n).label = t.label := rfl
@[simp] theorem Timebase.elapse_state (t : Timebase) : (t.elapse n).state = t.state := rfl
@[simp] theorem Timebase.elapse_seconds (t : Timebase) : (t.elapse n).seconds = t.seconds := rfl
@[simp] theorem Timebase.elapse_sampleIndex (t : Timebase) :
    (t.elapse n).sampleIndex = t.sampleIndex := rfl
@[simp] theorem Timebase.elapse_cRef (t : Timebase) : (t.elapse n).cRef = t.cRef := rfl
@[simp] theorem Timebase.elapse_lockStreak (t : Timebase) : (t.elapse n).lockStreak = t.lockStreak := rfl
@[simp] theorem Timebase.elapse_missed (t : Timebase) : (t.elapse n).missed = t.missed := rfl
@[simp] theorem Timebase.elapse_holdoverLimit (t : Timebase) : (t.elapse n).holdoverLimit = t.holdoverLimit := rfl
@[simp] theorem Timebase.elapse_pendingSeconds (t : Timebase) : (t.elapse n).pendingSeconds = t.pendingSeconds := rfl
@[simp] theorem Timebase.elapse_fsSetting (t : Timebase) : (t.elapse n).fsSetting = t.fsSetting := rfl
@[simp] theorem Timebase.elapse_fsInForce (t : Timebase) : (t.elapse n).fsInForce = t.fsInForce := rfl
@[simp] theorem Timebase.elapse_cInUse (t : Timebase) : (t.elapse n).cInUse = t.cInUse := rfl
@[simp] theorem Timebase.elapse_q (t : Timebase) : (t.elapse n).q = t.q := rfl
@[simp] theorem Timebase.elapse_r (t : Timebase) : (t.elapse n).r = t.r := rfl
@[simp] theorem Timebase.elapse_ppsEdges (t : Timebase) : (t.elapse n).ppsEdges = t.ppsEdges := rfl
@[simp] theorem Timebase.elapse_rejects (t : Timebase) : (t.elapse n).rejects = t.rejects := rfl
@[simp] theorem Timebase.elapse_outliers (t : Timebase) : (t.elapse n).outliers = t.outliers := rfl
@[simp] theorem Timebase.elapse_locks (t : Timebase) : (t.elapse n).locks = t.locks := rfl
@[simp] theorem Timebase.elapse_holdovers (t : Timebase) : (t.elapse n).holdovers = t.holdovers := rfl
@[simp] theorem Timebase.elapse_counter (t : Timebase) : (t.elapse n).counter = t.counter + n := rfl
@[simp] theorem Timebase.elapse_position (t : Timebase) :
    (t.elapse n).position = t.position + n := rfl

/-! ### The blocks that an index reaches -/

@[simp] theorem State.handover_ccu :
    s.handover.ccu = s.ccu.handover s.mode s.sampleOf s.tbu.label := rfl
@[simp] theorem State.handover_trx (i : Fin 6) : s.handover.trx[i] = s.trx[i].rearm := by
  simp [State.handover]
@[simp] theorem State.issueIndex_ccu :
    s.issueIndex.ccu = s.ccu.handover s.mode s.sampleOf s.tbu.label := rfl
@[simp] theorem State.issueIndex_trx (i : Fin 6) : s.issueIndex.trx[i] = s.trx[i].rearm := by
  simp [State.issueIndex, State.handover]

end

/-- A handover reaches the conditioner and the trunk receivers alone. -/
theorem State.handover_eq (s : State) :
    ∃ c x, s.handover = (s.withCcu c).withTrx x := by
  simp only [State.handover, State.withCcu, State.withTrx]
  exact ⟨_, _, rfl⟩

/-- An index reaches the conditioner, the trunk receivers and the timebase alone. -/
theorem State.issueIndex_eq (s : State) :
    ∃ c x t, s.issueIndex = ((s.withCcu c).withTrx x).withTbu t := by
  simp only [State.issueIndex, State.handover, State.withCcu, State.withTrx, State.withTbu]
  exact ⟨_, _, _, rfl⟩

/-- A mark reaches the conditioner, the trunk receivers, the timebase and the excerpt unit alone. -/
theorem State.mark_eq (step : Bool) (s : State) :
    ∃ c x, State.mark step s
      = (((s.withCcu c).withTrx x).withTbu (s.tbu.mark step)).withExu s.exu.refill := by
  obtain ⟨c, x, h⟩ := s.handover_eq
  simp only [State.mark, h]
  split
  · exact ⟨s.ccu, s.trx, rfl⟩
  · exact ⟨c, x, rfl⟩

/-- A tick completion reaches the conditioner, the engine and the mode controller alone. -/
theorem State.completeTick_eq (s : State) :
    ∃ c e m, s.completeTick = ((s.withCcu c).withStk e).withMdc m := by
  unfold State.completeTick
  generalize s.ccu.completeTick = c
  simp only [State.withCcu, State.withStk, State.withMdc, State.appendOrigin]
  split <;> exact ⟨_, _, _, rfl⟩

/-- So does the end of priming. -/
theorem State.endPriming_eq (s : State) :
    ∃ c e m, s.endPriming = ((s.withCcu c).withStk e).withMdc m := by
  simp only [State.endPriming, State.withCcu, State.withStk, State.withMdc, State.appendOrigin]
  exact ⟨_, _, _, rfl⟩

/-! ### One channel -/

/-- Channel k after the handover of a numbered epoch of a run. -/
theorem Conditioner.handover_channel {m : Mode} {c : Conditioner} {epoch : Nat} (hm : m ≠ .standby)
    (ho : c.openEpoch = some epoch) (samples : Fin 48 → Option (Int × Bool)) (l : Label) (k : Fin 48) :
    (c.handover m samples l).channels[k]
      = c.channels[k].handover epoch (epoch % c.dec = 0) (samples k) := by
  rw [Conditioner.handover_numbered hm ho]
  exact Conditioner.eachChannel_channel c _ k

section
variable (c : Channel) (epoch : Nat) (first : Bool) (x : Option (Int × Bool))

@[simp] theorem Channel.handover_record : (c.handover epoch first x).record = c.record := by
  simp [Channel.handover, Channel.accumulate]
@[simp] theorem Channel.handover_cfRing : (c.handover epoch first x).cfRing = c.cfRing := by
  simp [Channel.handover, Channel.accumulate]
@[simp] theorem Channel.handover_sta : (c.handover epoch first x).sta = c.sta := by
  simp [Channel.handover, Channel.accumulate]
@[simp] theorem Channel.handover_lta : (c.handover epoch first x).lta = c.lta := by
  simp [Channel.handover, Channel.accumulate]

/-- The value written does not depend on a pending change of the enabled field. -/
@[simp] theorem Channel.applyEnable_valueOf : c.applyEnable.valueOf x = c.valueOf x := by
  cases x <;> simp [Channel.valueOf]

theorem Channel.handover_rawRing : (c.handover epoch first x).rawRing =
    Memory.write .cleared c.rawRing (epoch % 4096)
      { value := c.valueOf x, held := x.isNone, clip := (x.map (·.2)).getD false } := by
  simp only [Channel.handover, Channel.accumulate, Channel.stepState_rawRing,
    Channel.takeSample_rawRing, Channel.applyEnable_rawRing, Channel.applyEnable_valueOf]

/-- The state after a handover is that of the state step alone. -/
theorem Channel.handover_state : (c.handover epoch first x).state
    = (c.applyEnable.stepState x.isSome).state := by
  cases x <;>
    (simp only [Channel.handover, Channel.accumulate, Channel.takeSample, Channel.stepState]
     split <;> simp_all <;> split <;> rfl)

theorem Channel.handover_tick : (c.handover epoch first x).envelopeSum
      = (if first then 0 else c.envelopeSum) + min (c.valueOf x).natAbs 8388607
    ∧ (c.handover epoch first x).heldInTick = ((if first then false else c.heldInTick) || x.isNone)
    ∧ (c.handover epoch first x).liveThroughout = ((if first then true else c.liveThroughout)
        && decide ((c.handover epoch first x).state = .live)) := by
  refine ⟨?_, ?_, ?_⟩ <;> simp [Channel.handover, Channel.accumulate]

end

end Sys2Proof.Machine
end

