-- ==== Sys2Proof/Laws/Operands.lean ====
section
/-! SUPPORT. Numbers as bytes: what a field of a body gives back of the number it was written from. -/

namespace Sys2Proof.Machine

@[simp] theorem le_length (n v : Nat) : (le n v).length = n := by
  induction n generalizing v with
  | zero => rfl
  | succ n ih => simp [le, ih]

@[simp] theorem leInt_length (n : Nat) (v : Int) : (leInt n v).length = n := by simp [leInt]

/-- The bytes of a number give it back modulo their range. -/
@[simp] theorem leValue_le (n v : Nat) : leValue (le n v) = v % 256 ^ n := by
  induction n generalizing v with
  | zero => simp [le, leValue, Nat.mod_one]
  | succ n ih =>
    have h : 256 ^ (n + 1) = 256 * 256 ^ n := by ring
    simp only [le, leValue, ih, BitVec.toNat_ofNat, h]
    have := Nat.mod_mul (x := v) (a := 256) (b := 256 ^ n)
    omega

/-- A field at the start of a body. -/
@[simp] theorem field_le (n v : Nat) (rest : List Byte) : field (le n v ++ rest) 0 n = v % 256 ^ n := by
  have h : ((le n v ++ rest).drop 0).take n = le n v := by
    simp [List.take_left' (l₁ := le n v) (l₂ := rest) (le_length n v)]
  rw [field, h, leValue_le]

@[simp] theorem field_le_nil (n v : Nat) : field (le n v) 0 n = v % 256 ^ n := by
  simpa using field_le n v []

/-- A field behind the bytes of a number. -/
theorem field_append (n v : Nat) (rest : List Byte) (off k : Nat) :
    field (le n v ++ rest) (n + off) k = field rest off k := by
  have h : (le n v ++ rest).drop (n + off) = rest.drop off := by
    rw [← List.drop_drop, List.drop_left' (le_length n v)]
  rw [field, field, h]

/-- A field behind a byte. -/
@[simp] theorem field_cons (b : Byte) (bs : List Byte) (off k : Nat) :
    field (b :: bs) (off + 1) k = field bs off k := rfl

@[simp] theorem field_cons_zero (b : Byte) (bs : List Byte) : field (b :: bs) 0 1 = b.toNat := by
  simp [field, leValue]

@[simp] theorem byte_toNat (n : Nat) : (byte n).toNat = n % 256 := by simp [byte]

end Sys2Proof.Machine
end

