-- ==== Sys2Proof/Laws/Port.lean ====
section
/-! SUPPORT. What the control port does with a request that completes while it is free: every request row is
reduced once to the work of the block that owns the request. -/

namespace Sys2Proof.Machine

/-! ### The request rows -/

/-- The row of a request is the completion of a frame of its kind. -/
theorem exec_command (r : Request) (tag : Byte) (body : List Byte) (s : State) :
    exec (r.command tag body) s = .next (s.hostSends r.kind tag body) := by
  cases r <;> rfl

theorem Request.kind_lt (r : Request) : r.kind.toNat < 128 := by cases r <;> decide

/-- A kind byte names its own request. -/
@[simp] theorem Request.ofKind_kind (r : Request) : Request.ofKind r.kind = some r := by
  cases r <;> decide

/-! ### A frame at a free port -/

@[simp] theorem State.counted_ccu (s : State) : s.counted.ccu = s.ccu := rfl
@[simp] theorem State.counted_tbu (s : State) : s.counted.tbu = s.tbu := rfl
@[simp] theorem State.counted_tts (s : State) : s.counted.tts = s.tts := rfl
@[simp] theorem State.counted_stk (s : State) : s.counted.stk = s.stk := rfl
@[simp] theorem State.counted_evb (s : State) : s.counted.evb = s.evb := rfl
@[simp] theorem State.counted_exu (s : State) : s.counted.exu = s.exu := rfl
@[simp] theorem State.counted_rpq (s : State) : s.counted.rpq = s.rpq := rfl
@[simp] theorem State.counted_mdc (s : State) : s.counted.mdc = s.mdc := rfl
@[simp] theorem State.counted_trx (s : State) : s.counted.trx = s.trx := rfl
@[simp] theorem State.counted_pending (s : State) : s.counted.pending = s.pending := rfl
@[simp] theorem State.counted_mode (s : State) : s.counted.mode = s.mode := rfl
@[simp] theorem State.counted_transmit (s : State) : s.counted.cpt.transmit = s.cpt.transmit := rfl

/-- With nothing of an epoch event left, nothing is settled. -/
theorem State.settleEpoch_of_none {s : State} (h : s.ccu.stage = .none) : s.settleEpoch = s := by
  simp [State.settleEpoch, h]

/-- One frame placed in an empty backlog of a free port is executed at once. -/
theorem runWaiting_one {u : State} {f : Frame} (he : u.cpt.executing = none) (hw : u.cpt.waiting = [])
    (hr : u.cpt.resetPending = false) :
    State.runWaiting { u with cpt := { u.cpt with waiting := u.cpt.waiting ++ [f] } } = u.executeFrame f := by
  obtain ⟨p, a, b, c, d, e, g, h, i, ⟨k, l, m, n, o, q, r⟩, j⟩ := u
  subst he hw hr
  rfl

/-- A frame that completes at a free port is executed at once on the state that has counted it. -/
theorem hostSends_of_ready {s : State} (h : s.ready) {kind : Byte} (hk : kind.toNat < 128) (tag : Byte)
    {body : List Byte} (hb : body.length ≤ 1152) :
    s.hostSends kind tag body = s.counted.executeFrame { kind := kind, tag := tag, body := body } := by
  obtain ⟨he, hw, hr, -, -⟩ := h
  have hb' : ¬ Config.maxBody < body.length := by simpa using hb
  have hk' : ¬ 0x80 ≤ kind.toNat := by omega
  have hc : (s.count fun c => { c with validFrames := satInc Config.max32 c.validFrames }) = s.counted := rfl
  have hbl : s.counted.cpt.backlog = 0 := by simp [State.counted, State.count, ControlPort.backlog, he, hw]
  rw [State.hostSends, if_neg hb', State.acceptFrame, if_neg hk', hc, if_pos (by omega)]
  exact runWaiting_one he hw hr

/-- A request whose reply is formed at once: the reply is placed and the frame counted. -/
theorem executeFrame_answered {s t : State} {f : Frame} {b : List Byte} (hs : s.ccu.stage = .none)
    (ha : answerFrame f s = (t, some b)) (ht : t.cpt.transmit.length < 4) :
    s.executeFrame f = { t with cpt := { t.cpt with transmit := t.cpt.transmit ++ [f.reply b] } } := by
  simp [State.executeFrame, State.settleEpoch_of_none hs, ha, State.placeReply, ht]

/-- The checks of R175 passed, the block that owns the request carries it out. -/
theorem answerFrame_passed {s : State} (r : Request) (tag : Byte) {body : List Byte}
    (hl : r.lengthOk body = true) (hm : r.modeOk s.mode = true)
    (hb : (r.needsUnlocked && s.tts.locked) = false) :
    answerFrame { kind := r.kind, tag := tag, body := body } s = r.apply body s := by
  simp [answerFrame, hl, hm, hb]

theorem Request.lengthOk_le {r : Request} {body : List Byte} (h : r.lengthOk body = true) :
    body.length ≤ 1152 := by
  cases r <;> (simp [Request.lengthOk] at h; simp [h]; try omega)

/-- The whole way of a request at a free port whose checks pass and whose reply is formed at once. -/
theorem exec_request {s t : State} (h : s.ready) (r : Request) (tag : Byte) {body b : List Byte}
    (hl : r.lengthOk body = true) (hm : r.modeOk s.mode = true)
    (hb : (r.needsUnlocked && s.tts.locked) = false)
    (ha : r.apply body s.counted = (t, some b)) (ht : t.cpt.transmit = s.cpt.transmit) :
    exec (r.command tag body) s
      = .next { t with cpt := { t.cpt with
          transmit := s.cpt.transmit ++ [{ kind := r.kind + 0x80, tag := tag, body := b }] } } := by
  rw [exec_command, hostSends_of_ready h r.kind_lt tag (Request.lengthOk_le hl),
    executeFrame_answered (s := s.counted) (t := t) (b := b) h.2.2.2.2
      (by rw [answerFrame_passed (s := s.counted) r tag hl hm hb, ha]) (by rw [ht]; exact h.2.2.2.1), ht]
  rfl

/-- The same where the block leaves the port as the count left it. -/
theorem exec_request_replied {s t : State} (h : s.ready) (r : Request) (tag : Byte) {body b : List Byte}
    (hl : r.lengthOk body = true) (hm : r.modeOk s.mode = true)
    (hb : (r.needsUnlocked && s.tts.locked) = false)
    (ha : r.apply body s.counted = (t, some b)) (ht : t.cpt = s.counted.cpt) :
    exec (r.command tag body) s = .next { t with cpt := s.cpt.replied r.kind tag b } := by
  rw [exec_request h r tag hl hm hb ha (by rw [ht]; rfl), ht]
  rfl

/-- A request refused by the checks of R175: the state that has counted the frame, with the reply. -/
theorem exec_refused {s : State} (h : s.ready) {kind : Byte} (hk : kind.toNat < 128) (tag st : Byte)
    {body : List Byte} (hb : body.length ≤ 1152)
    (ha : answerFrame { kind := kind, tag := tag, body := body } s.counted = (s.counted, some [st])) :
    s.hostSends kind tag body = { s with cpt := s.cpt.replied kind tag [st] } := by
  rw [hostSends_of_ready h hk tag hb, executeFrame_answered (s := s.counted) h.2.2.2.2 ha h.2.2.2.1]
  rfl

/-- A body length that the kind does not allow (R175, check 2). -/
theorem exec_badLength {s : State} (h : s.ready) (r : Request) (tag : Byte) {body : List Byte}
    (hb : body.length ≤ 1152) (hl : r.lengthOk body = false) :
    exec (r.command tag body) s = .next { s with cpt := s.cpt.replied r.kind tag [0x01] } := by
  rw [exec_command, exec_refused h r.kind_lt tag 0x01 hb]
  simp [answerFrame, hl, statusBadLength]

/-- A mode in which the request is not accepted (R175, check 3). -/
theorem exec_wrongMode {s : State} (h : s.ready) (r : Request) (tag : Byte) {body : List Byte}
    (hl : r.lengthOk body = true) (hm : r.modeOk s.mode = false) :
    exec (r.command tag body) s = .next { s with cpt := s.cpt.replied r.kind tag [0x04] } := by
  rw [exec_command, exec_refused h r.kind_lt tag 0x04 (Request.lengthOk_le hl)]
  simp [answerFrame, hl, hm, statusWrongMode]

/-- A locked bank (R175, check 4). -/
theorem exec_locked {s : State} (h : s.ready) (r : Request) (tag : Byte) {body : List Byte}
    (hl : r.lengthOk body = true) (hm : r.modeOk s.mode = true) (hn : r.needsUnlocked = true)
    (hk : s.tts.locked = true) :
    exec (r.command tag body) s = .next { s with cpt := s.cpt.replied r.kind tag [0x07] } := by
  rw [exec_command, exec_refused h r.kind_lt tag 0x07 (Request.lengthOk_le hl)]
  simp [answerFrame, hl, hm, hn, hk, statusBankLocked]

/-! ### TXD -/

/-- All that the free value can do: the place lies between those of the two extreme rates. -/
theorem ControlPort.bitPlace_bounds (c : ControlPort) :
    c.sentFor * c.lineRate.baud * 995 / 16384000000 ≤ c.bitPlace
      ∧ c.bitPlace ≤ c.sentFor * c.lineRate.baud * 1005 / 16384000000 := by
  unfold ControlPort.bitPlace clampNat
  simp only [Config.nominalSecond]
  split
  · omega
  · split <;> omega

/-- TXD idles high. -/
theorem ControlPort.txd_idle {c : ControlPort} (h : c.transmit = []) : c.txd = true := by
  simp only [ControlPort.txd, h]

theorem ControlPort.txd_sending {c : ControlPort} {r : Reply} {rest : List Reply} (h : c.transmit = r :: rest) :
    c.txd = r.lineBits.getD c.bitPlace true := by
  simp only [ControlPort.txd, h]

end Sys2Proof.Machine
end

