-- ==== Sys2Proof/Laws/Timebase.lean ====
section
/-! SUPPORT. What a second mark leaves, clamps as min and max, and which of the part's own events bound the
passing of time. -/

namespace Sys2Proof.Machine

theorem clampInt_eq {lo hi : Int} (h : lo ≤ hi) (n : Int) : clampInt lo hi n = max lo (min hi n) := by
  unfold clampInt; split <;> (try split) <;> omega

theorem clampNat_eq {lo hi : Nat} (h : lo ≤ hi) (n : Nat) : clampNat lo hi n = max lo (min hi n) := by
  unfold clampNat; split <;> (try split) <;> omega

theorem State.mark_tbu (step : Bool) (s : State) : (State.mark step s).tbu = s.tbu.mark step := by
  simp only [State.mark]; split <;> rfl

theorem State.mark_exu (step : Bool) (s : State) : (State.mark step s).exu = s.exu.refill := by
  simp only [State.mark]; split <;> rfl

/-- A mark begins a second of the length that its state gives. -/
theorem State.mark_beginsSecond (s : State) (c : Nat) (step : Bool) (hp : s.tbu.position ≠ 0)
    (hc : c = if s.tbu.state = .free ∨ s.tbu.state = .acquiring then 16384000 else s.tbu.cRef) :
    State.beginsSecond s (State.mark step s) c step := by
  have hr : ∀ a b : Nat, a - a / b * b = a % b := fun a b => by
    have := Nat.div_add_mod a b; rw [Nat.mul_comm] at this; omega
  have hc' : s.tbu.beginSecond.cInUse = c := by
    rw [hc]; simp [Timebase.beginSecond, Timebase.selfEnding]
  unfold State.beginsSecond
  rw [State.mark_tbu, State.mark_exu]
  refine ⟨rfl, rfl, hc', ?_, ?_, rfl, rfl, rfl, ?_, ?_, ?_, rfl, rfl, rfl, rfl, rfl, rfl, rfl, rfl, rfl,
    rfl, rfl, rfl, ?_⟩
  · rw [← hc']; rfl
  · rw [← hc', ← hr]; rfl
  · simp only [Timebase.mark, Timebase.nextSeconds, hp, if_false]
    cases s.tbu.pendingSeconds <;> rfl
  · simp only [Timebase.mark, hp, if_false]
  · simp only [Timebase.mark, Timebase.nextSeconds, hp, if_false]
    cases s.tbu.pendingSeconds <;> rfl
  · simp only [State.mark]; split <;> simp [State.handover]

/-! ### Transitions that are no marks -/

/-- All that a transition does: the state, and the quality of an epoch opened in its very cycle. -/
theorem Timebase.enter_eq (t : Timebase) (st : TimebaseState) :
    t.enter st = { t with
      state := st
      label := { t.label with
        quality := if t.position = t.issueAt t.sampleIndex then st else t.label.quality } } := by
  unfold Timebase.enter Timebase.justOpened
  by_cases h : t.position = t.issueAt t.sampleIndex <;> simp [h]

/-- A transition keeps the label in order, whatever its quality was before. -/
theorem Timebase.enter_labelInOrder {t : Timebase} (st : TimebaseState) (h : t.label.index = t.sampleIndex) :
    (t.enter st).labelInOrder :=
  ⟨h, fun hj => if_pos hj⟩

/-- An index and a mark open an epoch whose label is in order. -/
theorem State.issueIndex_labelInOrder (s : State) : s.issueIndex.tbu.labelInOrder := ⟨rfl, fun _ => rfl⟩

theorem Timebase.mark_labelInOrder (step : Bool) (t : Timebase) : (t.mark step).labelInOrder :=
  ⟨rfl, fun _ => rfl⟩

/-! ### The blocks that marks and PPS edges reach -/

/-- Only the conditioner, the trunk receivers, the timebase and the excerpt unit differ. -/
def Marks (s t : State) : Prop :=
  ∃ c x b u, t = (((s.withCcu c).withTrx x).withTbu b).withExu u

theorem State.mark_marks (step : Bool) (s : State) (b : Timebase) : Marks s (State.mark step (s.withTbu b)) := by
  obtain ⟨c, x, h⟩ := State.mark_eq step (s.withTbu b)
  rw [h]
  exact ⟨_, _, _, _, rfl⟩

theorem State.withTbu_marks (s : State) (b : Timebase) : Marks s (s.withTbu b) :=
  ⟨s.ccu, s.trx, b, s.exu, rfl⟩

theorem State.ppsEdge_marks (s : State) : Marks s s.ppsEdge := by
  unfold State.ppsEdge
  dsimp only
  repeat' split
  all_goals first
    | exact State.withTbu_marks s _
    | exact State.mark_marks _ s _

theorem State.rollover_marks (s : State) : Marks s s.rollover := State.mark_marks _ s _

theorem State.enterHoldover_marks (s : State) : Marks s s.enterHoldover := State.mark_marks _ s _

theorem State.expireHoldover_marks (s : State) : Marks s s.expireHoldover := by
  unfold State.expireHoldover
  split <;> exact State.mark_marks _ s _

end Sys2Proof.Machine
end

