-- ==== Sys2Proof/Laws/Step.lean ====
section
/-! SUPPORT. Once, what a step can do: a property that every operation below keeps is kept by every step. The
operations are those of the blocks; the queue, the pins and the control port are handled here. -/

namespace Sys2Proof.Machine

/-- The operations that a step is made of keep the property `P`. -/
structure Kept (P : State → Prop) : Prop where
  /-- the commands that wait -/
  pending : ∀ s x, P s → P (s.withPending x)
  /-- the trunk receivers, as the trunk rows leave them -/
  trx : ∀ s x, P s → P (s.withTrx x)
  /-- the control port -/
  cpt : ∀ s x, P s → P (s.withCpt x)
  powerOn : ∀ rate1 rate0, P (State.powerOn rate1 rate0)
  softReset : ∀ s, P s → P s.softReset
  completeTick : ∀ s, s.ccu.stage = .completion → P s → P s.completeTick
  endPriming : ∀ s, s.ccu.stage = .primingEnd → P s → P s.endPriming
  ppsEdge : ∀ s, P s → P s.ppsEdge
  idle : ∀ s, s.roundDue = false → s.dueEvent = none → P s → P (s.elapse 1)
  startRound : ∀ s, s.roundDue = true → P s → P s.startRound
  sampleEpoch : ∀ s n, s.comesIn .sampleEpoch n → P s → P (s.elapse n).issueIndex
  acquiringTimeout : ∀ s n, s.comesIn .acquiringTimeout n → P s → P (s.elapse n).acquiringTimeout
  rollover : ∀ s n, s.comesIn .freeRunRollover n → P s → P (s.elapse n).rollover
  enterHoldover : ∀ s n, s.comesIn .holdoverEntry n → P s → P (s.elapse n).enterHoldover
  expireHoldover : ∀ s n, s.comesIn .holdoverExpiry n → P s → P (s.elapse n).expireHoldover
  passStart : ∀ s, s.passStartDue = true → P s → P s.startPass
  passEnd : ∀ s n e, s.comesIn e n → s.passEndIn = some n → P s → P (s.elapse n).endPass
  readGrant : ∀ s n, s.comesIn .readGrant n → P s → P (s.elapse n).grantRead
  copySlice : ∀ s n, s.comesIn .copySlice n → P s → P (s.elapse n).endSlice
  excerptTake : ∀ s, s.takeReady = true → P s → P s.take
  gapTimeout : ∀ s n, s.comesIn .gapTimeout n → P s → P (s.elapse n)
  /-- a request whose checks have passed, carried out by its block -/
  request : ∀ (r : Request) body s, r.lengthOk body = true → r.modeOk s.mode = true →
    (r.needsUnlocked && s.tts.locked) = false → P s → P (r.apply body s).1

variable {P : State → Prop}

theorem Kept.withCpt (h : Kept P) {s : State} (hs : P s) (x : ControlPort) : P { s with cpt := x } :=
  h.cpt s x hs

theorem Kept.settleEpoch (h : Kept P) {s : State} (hs : P s) : P s.settleEpoch := by
  have h1 : P (if s.ccu.stage = .completion then s.completeTick else s) := by
    split
    · rename_i hc; exact h.completeTick s hc hs
    · exact hs
  generalize hu : (if s.ccu.stage = .completion then s.completeTick else s) = u at h1
  have : s.settleEpoch = if u.ccu.stage = .primingEnd then u.endPriming else u := by
    simp only [State.settleEpoch, hu]
  rw [this]
  split
  · rename_i hp; exact h.endPriming _ hp h1
  · exact h1

theorem Kept.answerFrame (h : Kept P) {s : State} (hs : P s) (f : Frame) : P (answerFrame f s).1 := by
  unfold Machine.answerFrame
  split
  · exact hs
  · rename_i r _
    split
    · exact hs
    · split
      · exact hs
      · split
        · exact hs
        · rename_i h1 h2 h3
          exact h.request r f.body s (by simpa using h1) (by simpa using h2) (by simpa using h3) hs

theorem Kept.placeReply (h : Kept P) {s : State} (hs : P s) (r : Reply) : P (s.placeReply r) := by
  unfold State.placeReply
  split <;> exact h.withCpt hs _

theorem Kept.executeFrame (h : Kept P) {s : State} (hs : P s) (f : Frame) : P (s.executeFrame f) := by
  have h1 := h.answerFrame (h.settleEpoch hs) f
  unfold State.executeFrame
  split
  · rename_i e; rw [e] at h1; exact h.placeReply h1 _
  · rename_i e; rw [e] at h1; exact h.withCpt h1 _

theorem Kept.runBacklog (h : Kept P) : ∀ (n : Nat) {s : State}, P s → P (State.runBacklog n s) := by
  intro n
  induction n with
  | zero => exact fun hs => hs
  | succ n ih =>
    intro s hs
    simp only [State.runBacklog]
    split
    · exact hs
    · split
      · exact hs
      · exact ih (h.executeFrame (h.withCpt hs _) _)

theorem Kept.runWaiting (h : Kept P) {s : State} (hs : P s) : P s.runWaiting := h.runBacklog _ hs

theorem Kept.count (h : Kept P) {s : State} (hs : P s) (f : LinkCounters → LinkCounters) :
    P (s.count f) := h.withCpt hs _

theorem Kept.receive (h : Kept P) {s : State} (hs : P s) (r : Receiver) : P (s.receive r) :=
  h.withCpt hs _

theorem Kept.acceptFrame (h : Kept P) {s : State} (hs : P s) (f : Frame) : P (s.acceptFrame f) := by
  unfold State.acceptFrame
  split
  · exact h.count hs _
  · dsimp only
    split
    · exact h.runWaiting (h.withCpt (h.count hs _) _)
    · unfold State.refuseBusy
      split
      · exact h.withCpt (h.count hs _) _
      · exact h.count (h.count hs _) _

theorem Kept.hostSends (h : Kept P) {s : State} (hs : P s) (kind tag : Byte) (body : List Byte) :
    P (s.hostSends kind tag body) := by
  unfold State.hostSends
  split
  · exact h.count hs _
  · exact h.acceptFrame hs _

theorem Kept.goodByte (h : Kept P) {s : State} (hs : P s) (b : Byte) : P (s.goodByte b) := by
  unfold State.goodByte
  split
  · unfold State.takeFrameByte
    dsimp only
    repeat' split
    all_goals first
      | exact h.receive hs _
      | exact h.count (h.receive hs _) _
      | skip
    unfold State.completeFrame
    dsimp only
    split
    · exact h.acceptFrame (h.receive hs _) _
    · exact h.count (h.receive hs _) _
  · split
    · exact h.receive hs _
    · exact h.count hs _

theorem Kept.replySent (h : Kept P) {s : State} (hs : P s) : P s.replySent := by
  unfold State.replySent
  split
  · exact hs
  · split
    · exact h.softReset s hs
    · dsimp only
      split
      · exact h.runWaiting (h.withCpt (h.withCpt hs _) _)
      · exact h.withCpt hs _
      · exact h.runWaiting (h.withCpt hs _)

theorem Kept.endReadGrant (h : Kept P) {s : State} (hs : P s.grantRead) : P s.endReadGrant := by
  unfold State.endReadGrant
  split
  · exact h.runWaiting (h.placeReply (h.withCpt hs _) _)
  · exact hs

theorem Kept.serveIdle (h : Kept P) {s : State} (hs : P s) : P s.serveIdle := by
  unfold State.serveIdle
  split
  · rename_i hr; exact h.startRound s hr hs
  · exact hs

/-- An event of the part's own keeps what the round before it and its own taking keep. -/
theorem Kept.comeAbout (h : Kept P) {e : Instr} {take : State → State} {s : State} (hs : P s)
    (ht : ∀ u n, State.comesIn u e n → P u → P (take (u.elapse n))) : P (s.comeAbout e take) := by
  rcases s.comeAbout_cases e take with hc | ⟨n, hn, hc⟩
  · rw [hc]; exact h.serveIdle hs
  · rw [hc]; exact ht _ n hn (h.serveIdle hs)

/-- Where an event can only be due now, it is taken without a passing of time. -/
theorem State.comesIn_dueNow {s : State} {e : Instr} {n : Nat} {b : Bool} (h : s.comesIn e n)
    (he : s.dueIn e = dueNow b) : n = 0 ∧ b = true := by
  have := h.1
  rw [he, dueNow] at this
  split at this
  · rename_i hb; exact ⟨by simpa using this.symm, hb⟩
  · cases this

/-- Every command keeps the property. -/
theorem Kept.exec (h : Kept P) (c : Instr) {s : State} (hs : P s) :
    ∃ t, Machine.exec c s = .next t ∧ P t := by
  cases c
  case powerOnReset r1 r0 =>
    exact ⟨_, rfl, h.pending _ s.pending (h.trx _ (Vector.ofFn fun t : Fin 6 =>
      { (State.powerOn r1 r0).trx[t] with fv := s.trx[t].fv }) (h.powerOn r1 r0))⟩
  case trunkByte i b => exact ⟨_, rfl, h.trx _ _ hs⟩
  case trunkBit i b => exact ⟨_, rfl, h.trx _ _ hs⟩
  case pause p => exact ⟨_, rfl, h.trx _ _ hs⟩
  case breakWithinByte i => exact ⟨_, rfl, h.trx _ _ hs⟩
  case moveToWaiting i => exact ⟨_, rfl, h.trx _ _ hs⟩
  case ppsEdge => exact ⟨_, rfl, h.ppsEdge s hs⟩
  case sampleEpoch => exact ⟨_, rfl, h.comeAbout hs h.sampleEpoch⟩
  case acquiringTimeout => exact ⟨_, rfl, h.comeAbout hs h.acquiringTimeout⟩
  case freeRunRollover => exact ⟨_, rfl, h.comeAbout hs h.rollover⟩
  case holdoverEntry => exact ⟨_, rfl, h.comeAbout hs h.enterHoldover⟩
  case holdoverExpiry => exact ⟨_, rfl, h.comeAbout hs h.expireHoldover⟩
  case copySlice => exact ⟨_, rfl, h.comeAbout hs h.copySlice⟩
  case readGrant =>
    exact ⟨_, rfl, h.comeAbout hs fun u n hn hu => h.endReadGrant (h.readGrant u n hn hu)⟩
  case gapTimeout =>
    exact ⟨_, rfl, h.comeAbout hs fun u n hn hu => h.count (h.receive (h.gapTimeout u n hn hu) _) _⟩
  case passEnd => exact ⟨_, rfl, h.comeAbout hs fun u n hn hu => h.passEnd u n _ hn hn.1 hu⟩
  case deadCountEnd r =>
    refine ⟨_, rfl, h.comeAbout hs fun u n hn hu => h.passEnd u n _ hn ?_ hu⟩
    have := hn.1
    simp only [State.dueIn] at this
    split at this
    · exact this
    · cases this
  case tickCompletion =>
    refine ⟨_, rfl, h.comeAbout hs fun u n hn hu => ?_⟩
    obtain ⟨rfl, hb⟩ := State.comesIn_dueNow hn rfl
    rw [State.elapse_zero]
    exact h.completeTick u (by simpa using hb) hu
  case primingEnd =>
    refine ⟨_, rfl, h.comeAbout hs fun u n hn hu => ?_⟩
    obtain ⟨rfl, hb⟩ := State.comesIn_dueNow hn rfl
    rw [State.elapse_zero]
    exact h.endPriming u (by simpa using hb) hu
  case passStart =>
    refine ⟨_, rfl, h.comeAbout hs fun u n hn hu => ?_⟩
    obtain ⟨rfl, hb⟩ := State.comesIn_dueNow hn rfl
    rw [State.elapse_zero]
    exact h.passStart u hb hu
  case excerptTake =>
    refine ⟨_, rfl, h.comeAbout hs fun u n hn hu => ?_⟩
    obtain ⟨rfl, hb⟩ := State.comesIn_dueNow hn rfl
    rw [State.elapse_zero]
    exact h.excerptTake u hb hu
  case rxByte b hi =>
    refine ⟨_, rfl, ?_⟩
    split
    · exact h.goodByte hs b
    · exact h.count (h.receive hs _) _
  case replySent => exact ⟨_, rfl, h.replySent hs⟩
  all_goals exact ⟨_, rfl, h.hostSends hs _ _ _⟩

/-- Every step keeps the property. -/
theorem Kept.step (h : Kept P) {s t : State} (hs : P s) (ht : Machine.step s = .next t) : P t := by
  have key : ∀ (c : Instr) (u : State), P u → Machine.exec c u = .next t → P t := by
    intro c u hu he
    obtain ⟨t', h1, h2⟩ := h.exec c hu
    rw [h1] at he
    cases he
    exact h2
  unfold Machine.step at ht
  split at ht
  · unfold Machine.idle at ht
    split at ht
    · rename_i hr
      cases ht
      exact h.startRound s hr hs
    · rename_i hr
      split at ht
      · exact key _ s hs ht
      · rename_i hd
        cases ht
        exact h.idle s (by simpa using hr) hd hs
  · exact key _ _ (h.pending s _ hs) ht

end Sys2Proof.Machine
end

