-- ==== Sys2Proof/Laws/Trunks.lean ====
section
/-! SUPPORT. What the eight bits of a byte do to a trunk receiver. -/

namespace Sys2Proof.Machine

theorem satInc_eq_min (max n : Nat) : satInc max n = min max (n + 1) := by
  unfold satInc; split <;> omega

/-- The bit taken, appended below the bits already taken. -/
theorem shiftIn_eq (b : Byte) (bit : Bool) :
    (b <<< 1) ||| (if bit then 1#8 else 0#8) = 2#8 * b + (if bit then 1#8 else 0#8) := by
  revert b bit; decide +kernel

theorem getLsbD_ite_bit (c : Bool) (i : Nat) :
    (if c = true then 1#8 else 0#8).getLsbD i = (c && decide (i = 0)) := by
  cases c <;> simp [BitVec.getLsbD_one]

/-- Eight bits shifted in, most significant first, leave the byte itself. -/
theorem shiftIn_eight (b x : Byte) :
    [7, 6, 5, 4, 3, 2, 1, 0].foldl (fun (x : Byte) i => (x <<< 1) ||| (if b.getLsbD i then 1#8 else 0#8)) x
      = b := by
  simp only [List.foldl]
  apply BitVec.eq_of_getLsbD_eq
  intro i hi
  have : i = 0 ∨ i = 1 ∨ i = 2 ∨ i = 3 ∨ i = 4 ∨ i = 5 ∨ i = 6 ∨ i = 7 := by omega
  rcases this with h | h | h | h | h | h | h | h <;> subst h <;>
    simp only [BitVec.getLsbD_or, BitVec.getLsbD_shiftLeft, getLsbD_ite_bit] <;> simp

/-- One update of a receiver stands for another where both give the same receiver. -/
theorem State.onTrunk_congr (s : State) (i : Fin 6) {f g : Trunk → Trunk} (h : f s.trx[i] = g s.trx[i]) :
    s.onTrunk i f = s.onTrunk i g := by
  simp only [State.onTrunk, h]

/-- A byte begun between bytes, in a state that takes bits, is one whole byte (R2). -/
theorem Trunk.takeBits8_takes (b : Byte) (t : Trunk) (h0 : t.bitCount = 0) (h : t.takesBits = true) :
    Trunk.takeBits8 b t = Trunk.takeByte b { t with fv := true, bitCount := 0, byteInProgress := 0 } := by
  obtain ⟨fv, st, n, k, x, fr, fa, br⟩ := t
  simp only at h0; subst h0
  have hx := shiftIn_eight b x
  have hh : st = .waiting ∨ st = .assembling := by simpa [Trunk.takesBits] using h
  simp [Trunk.takeBits8, Trunk.takeBit, Trunk.takesBits, hh]
  simp at hx
  rw [hx]

/-- In a state that takes no bits a byte has no effect but the level of FV (R2). -/
theorem Trunk.takeBits8_ignores (b : Byte) (t : Trunk) (h : t.takesBits = false) :
    Trunk.takeBits8 b t = { t with fv := true } := by
  obtain ⟨fv, st, n, k, x, fr, fa, br⟩ := t
  have hh : ¬ (st = .waiting ∨ st = .assembling) := by simpa [Trunk.takesBits] using h
  simp [Trunk.takeBits8, Trunk.takeBit, Trunk.takesBits, hh]

end Sys2Proof.Machine
end

