-- ==== Sys2Proof/Tests/Slice0.lean ====
section
/-! SUPPORT. Tests of the model. The expected values of the `test_` theorems are those of the manual's
worked cases, or worked by hand from its rules; the `witness_` theorems show, for each statement of
Certificates/Slice0/Obligations.lean that has hypotheses, concrete states and operands that meet them
together, at the boundaries of the ranges. -/

namespace Sys2Proof.Tests

open Sys2Proof Sys2Proof.Machine

-- Each theorem is elaborated before the next: the kernel evaluates one test at a time.
set_option Elab.async false

/-! ### Small states -/

/-- The state after a command. -/
def after (c : Instr) (s : State) : State :=
  match exec c s with
  | .next t => t
  | .fault _ => s
  | .refused _ => s

/-- The state after several commands. -/
def run (cs : List Instr) (s : State) : State := cs.foldl (fun s c => after c s) s

/-- The body of the newest reply. -/
def lastBody (s : State) : List Byte := (s.cpt.transmit.getLast?.map Reply.body).getD []

/-- The state after reset with the mode changed. -/
def inMode (m : Mode) : State := State.reset.withMdc { mode := m, countdown := 5 }

/-- The state after reset with trunk 1 changed. -/
def withTrunk (f : Trunk → Trunk) : State := State.reset.onTrunk 1 f

/-- The state after reset with channel 12 changed. -/
def withChannel (f : Channel → Channel) : State :=
  { State.reset with ccu := { State.reset.ccu with
    channels := State.reset.ccu.channels.set 12 (f State.reset.ccu.channels[12]) } }

/-- LISTENING, epoch 103 in progress (the last of tick 25 with D = 4), channel 12 changed. -/
def listening (f : Channel → Channel) : State :=
  { withChannel f with
    mdc := { mode := .listening, countdown := 0 }
    ccu := { (withChannel f).ccu with openEpoch := some 103, newestEpoch := some 102, tickCount := 25 } }

/-- A state with this timebase near the end of a second of 2000 indices. -/
def lateSecond (f : Timebase → Timebase) : State :=
  State.reset.withTbu (f { State.reset.tbu with sampleIndex := 1999, position := 16383000 })

/-- The state after reset with this many nodes in each bank. -/
def withTables (a b : Nat) : State :=
  State.reset.withTts { State.reset.tts with
    bankA := { Bank.powerOn with count := a }, bankB := { Bank.powerOn with count := b } }

/-- LISTENING with tables of 3 and 2 nodes. -/
def busyTables : State := (withTables 3 2).withMdc { mode := .listening, countdown := 0 }

/-- LISTENING with the pass of origin 16 running over three nodes, after two engine cycles, its result
carrying this many skipped origins, and the slot of region 3 as given. -/
def passing (skipped : Nat) (slot : Slot) : State :=
  { busyTables.onRegion 3 (fun g => { g with slot := slot, inForce := true }) with
    stk := { State.reset.stk with
      pass := some { busyTables.passContext 16 with cycles := 2, skippedBefore := skipped } } }

/-- A label. -/
def labelOf (n : Nat) : Label := { seconds := n, index := 7, quality := .locked, step := false }

/-- A best of this node, mean and count, all delays 255 but that of channel 0. -/
def bestOf (node m c : Nat) : Best :=
  { node := node, m := m, c := c, wsum := 10, delays := (Vector.replicate 48 255).set 0 10 }

/-- A pass result with this best for region 3 alone. -/
def resultOf (origin skipped : Nat) (b : Option Best) : PassResult :=
  { origin := origin, skippedBefore := skipped, bank := .b, label := labelOf origin,
    best := (Vector.replicate 16 none).set 3 b }

/-- A candidate opened at origin 5000 by node 340 with M 53. -/
def candidate : Candidate := .ofBest (bestOf 340 53 4) (resultOf 5000 0 none)

/-- A state whose region 3 has this slot, with the record of the manual's worked case of 06_…: release 3,
max span 12, dead time 2. -/
def withSlot (slot : Slot) : State :=
  State.reset.onRegion 3 fun g => { g with
    record := { g.record with enabled := true, release := 3, maxSpan := 12, deadTime := 2 }
    inForce := true
    slot := slot }

/-- A summary record. -/
def summaryOf (n : Nat) : Summary :=
  .event { event := n, region := 0, reason := .quiet, closeOrigin := 1, candidate := candidate,
           lostBefore := 0, status := .off }

/-- The state after reset with this many records in the summary queue. -/
def withSummaries (n : Nat) : State :=
  State.reset.withRpq { State.reset.rpq with summaries := (List.range n).map summaryOf, attn := true }

/-- A job whose only window ends at epoch 1099. -/
def job : Job :=
  { event := 1, origin := 15, label := labelOf 1, decimation := 4, pre := 2, post := 100,
    channels := [{ channel := 3, delay := 10, arrival := 1000 }], forced := false }

/-- The state after reset with that job waiting and this newest epoch. -/
def withJob (newest : Option Nat) : State :=
  { State.reset with
    exu := { State.reset.exu with jobs := [job] }
    ccu := { State.reset.ccu with newestEpoch := newest } }

/-- A TABLE READ of node 2 on of bank A. -/
def readOf : ReadRequest := { bank := .a, node := 2, channel := 47, count := 2 }

/-- The waiting read in its grant, this many engine cycles left. -/
def granting (cycles : Nat) : State :=
  { busyTables with
    tts := { busyTables.tts with
      waitingRead := some readOf, round := some { grant := .read, cyclesLeft := cycles } }
    cpt := { busyTables.cpt with executing := some (.tableRead 9) } }

/-- A copy slice of a job of this many nodes in progress. -/
def slicing (total copied : Nat) : State :=
  busyTables.withTts { busyTables.tts with
    copy := some { toCopy := total, copied := copied }
    round := some { grant := .slice, cyclesLeft := 16 * min 64 (total - copied) } }

/-- A segment of 800 samples of this value, its header items aside (07_…, "one budget, three modes"). -/
def segmentOf (values : List Int) : Segment :=
  { channel := 0, delay := 0, arrival := 0, offset := 0,
    samples := values.map fun v => { value := v, held := false, clip := false },
    headClip := false, tailClip := false }

/-- A frame being received, at this position. -/
def receiving (f : FrameInProgress) : State :=
  State.reset.withCpt { State.reset.cpt with receiver := .inFrame f }

/-- The start of a frame. -/
def frameAt (position : Nat) : FrameInProgress :=
  { position := position, kind := 1, tag := 0x22, length := 0, body := [], check := 0xFFFF,
    checkLow := 0xFF, gap := 163839 }

/-! ### WellFormed: each check refuses an ill-formed command -/

theorem test_body_of_1152_is_wellFormed :
    (Instr.tableWrite 1 (List.replicate 1152 0)).wellFormed = true := by decide +kernel

theorem test_body_of_1153_is_refused :
    (Instr.tableWrite 1 (List.replicate 1153 0)).wellFormed = false := by decide +kernel

theorem test_reply_kind_is_refused : (Instr.unknownKind 0x80 1 []).wellFormed = false := by decide

theorem test_request_kind_is_no_unknown_kind :
    (Instr.unknownKind 0x22 1 []).wellFormed = false := by decide

theorem test_unknown_kind_is_wellFormed : (Instr.unknownKind 0x7A 0x25 []).wellFormed = true := by decide

theorem test_no_row_has_bits : decodeTableWord 8 0x22 = none := rfl

/-! ### Trunks and channels (01_…, its worked cases) -/

theorem test_calibration_gain : calibrate 3072 1000000 = 750000 := by decide +kernel
theorem test_calibration_rounds_half_up : calibrate 1024 (-3) = -4 ∧ calibrate 0 (-5) = -5 := by
  decide +kernel
theorem test_calibration_saturates :
    calibrate 2047 8000000 = 8388607 ∧ calibrateSaturates 2047 8000000 = true := by decide +kernel

/-- Epoch 102 of the worked sequence: the first byte is no marker. -/
theorem test_wrong_marker_rejects :
    ((after (.trunkByte 1 0) (withTrunk fun t => { t with state := .waiting })).trx[1].state,
      (after (.trunkByte 1 0) (withTrunk fun t => { t with state := .waiting })).trx[1].faults)
      = (.rejected, 1) := by decide +kernel

theorem test_trunk_byte_is_msb_first :
    (after (.trunkByte 1 0x2C) (withTrunk fun t => { t with state := .assembling, byteCount := 1 })).trx[1].frame
      = [0x2C] := by decide +kernel

theorem test_trunk_bit_completes_the_marker :
    (after (.trunkBit 1 false) (withTrunk fun t =>
      { t with state := .waiting, bitCount := 7, byteInProgress := 0x5A })).trx[1].state = .assembling := by
  decide +kernel

/-- Epoch 101 of the worked sequence: 5 bits of the 10th byte are dropped, the 9 bytes kept. -/
theorem test_break_keeps_whole_bytes :
    (fun t : Trunk => (t.state, t.byteCount, t.bitCount)) (after (.breakWithinByte 1) (withTrunk fun t =>
      { t with fv := true, state := .assembling, byteCount := 9, bitCount := 5 })).trx[1]
      = (.assembling, 9, 0) := by decide +kernel

theorem test_pause_keeps_whole_bytes :
    (after (.pause ⟨1, false⟩) (withTrunk fun t =>
      { t with fv := true, state := .assembling, byteCount := 14 })).trx[1].byteCount = 14 := by
  decide +kernel

/-- FV raised before the SMP, with no edge of BCK between, gives ARMING, and FV low there WAITING (R3). -/
theorem test_fv_at_the_smp_decides :
    [true, false].map (fun ended => (run [.pause ⟨1, ended⟩, .sampleEpoch]
      (withTrunk fun t => { t with state := .waiting })).trx[1].state) = [.arming, .waiting] := by
  decide +kernel

theorem test_low_edge_leaves_arming :
    (after (.moveToWaiting 1) (withTrunk id)).trx[1].state = .waiting := by decide +kernel

/-- Epoch 101: 14 bytes are 4 whole slots. -/
theorem test_fourteen_bytes_are_four_slots :
    ({ Trunk.powerOn with state := .assembling, byteCount := 14 } : Trunk).newSlots = 4 := by decide

/-- Channel 12 of the worked sequence: H = 2, G = 3, at the handovers of epochs 101 to 108. -/
theorem test_channel_state_sequence :
    (fun c : Channel => (c.state, c.heldRun, c.goodRun, c.staleCount))
      ([false, false, false, true, false, true, true, true].foldl (fun c new => c.stepState new)
        { Channel.powerOn with
          state := .live, record := { ChannelRecord.powerOn with staleLimit := 2, recovery := 3 } })
      = (.live, 0, 3, 2) := by decide

theorem test_sample_epoch_writes_the_sample :
    Memory.read .cleared (after .sampleEpoch { listening (fun c => { c with state := .live }) with
        trx := State.reset.trx.set 1 { Trunk.powerOn with
          state := .complete
          frame := 0x10 :: (List.replicate 12 0) ++ [0xFF, 0xFB, 0x49] ++ List.replicate 9 0 }
      }).ccu.channels[12].rawRing 103 = { value := -1207, held := false, clip := true } := by decide +kernel

/-! ### The characteristic function (02_…, its worked cases) -/

/-- Channel 12 with the STA and LTA given and an envelope of e, D = 4, at the completion of tick 1000. -/
def cfTick (e sta lta : Nat) : Nat × Nat × CfEntry :=
  (fun c : Channel => (c.sta, c.lta, Memory.read .cleared c.cfRing 232))
    ({ Channel.powerOn with state := .live, envelopeSum := 4 * e, sta := sta, lta := lta }.completeTick
      1000 4 3 9)

theorem test_cf_arrival_and_decay :
    cfTick 1200 102400 25600 = (128000, 25600, { value := 80, valid := true })
    ∧ cfTick 1200 128000 25600 = (150400, 25600, { value := 94, valid := true })
    ∧ cfTick 100 150400 25600 = (134800, 25600, { value := 84, valid := true })
    ∧ cfTick 0 134800 25600 = (117950, 25600, { value := 73, valid := true })
    ∧ cfTick 0 117950 25600 = (103206, 25600, { value := 64, valid := true })
    ∧ cfTick 0 103206 25600 = (90305, 25550, { value := 56, valid := true }) := by decide +kernel

theorem test_cf_low_floor :
    cfTick 100 0 0 = (3200, 50, { value := 12, valid := true })
    ∧ cfTick 100 8450 148 = (10593, 197, { value := 41, valid := true })
    ∧ cfTick 100 15545 344 = (16801, 344, { value := 65, valid := true }) := by decide +kernel

/-- A held tick writes {0, invalid}; in LISTENING the completion of tick 511 appends origin 271. -/
theorem test_tick_completion_appends :
    (after .tickCompletion { listening (fun c => { c with state := .live, heldInTick := true }) with
      ccu := { (listening id).ccu with tickCount := 511, stage := .completion } }).stk.origins = [271] := by
  decide +kernel

/-- From START to the first origin (08_…): with the last tick of priming the mode becomes LISTENING. -/
theorem test_priming_end_appends_the_first_origin :
    (fun s : State => (s.mode, s.stk.origins, s.ccu.tickCount))
      (run [.tickCompletion, .primingEnd] { State.reset with
        mdc := { mode := .priming, countdown := 1 }
        ccu := { State.reset.ccu with tickCount := 511, stage := .completion } })
      = (.listening, [271], 512) := by decide +kernel

/-! ### The timebase (03_…, its worked cases) -/

theorem test_schedule_of_a_locked_second :
    [1, 150, 151, 1999].map { Timebase.powerOn with cInUse := 16384150, q := 8192, r := 150 }.issueAt
      = [8193, 1228950, 1237142, 16375958] := by decide +kernel

theorem test_locked_edge_sets_c_ref :
    (fun t : Timebase => (t.cRef, t.q, t.r, t.label.step)) (after .ppsEdge (lateSecond fun t =>
      { t with state := .locked, cRef := 16384150, counter := 16384310 })).tbu
      = (16384310, 8192, 310, false) := by decide +kernel

/-- Edges 6 and 7 of the acquisition. -/
theorem test_lock_mark :
    (fun t : Timebase => (t.state, t.lockStreak, t.cRef, t.locks, t.label, t.r)) (after .ppsEdge (lateSecond fun t =>
      { t with
        state := .acquiring, lockStreak := 3, cRef := 16384210, counter := 16384195, seconds := 14 })).tbu
      = (.locked, 4, 16384195, 1, { seconds := 15, index := 0, quality := .locked, step := true }, 195) := by
  decide +kernel

/-- The first synthetic mark of the holdover. -/
theorem test_holdover_entry :
    (fun t : Timebase => (t.state, t.counter, t.missed, t.seconds, t.label.step)) (after .holdoverEntry
      (lateSecond fun t => { t with
        state := .locked, cRef := 16384240, counter := 16385870, position := 16385870,
        seconds := 500 })).tbu = (.holdover, 1638, 1, 501, true) := by
  decide +kernel

/-- The second synthetic mark, and the entry into FREE with a holdover limit of 2. -/
theorem test_holdover_expiry :
    (fun t : Timebase => (t.state, t.counter, t.missed, t.seconds, t.label.step)) (after .holdoverExpiry
      (lateSecond fun t => { t with
        state := .holdover, cRef := 16384240, counter := 16385870, seconds := 501, missed := 1 })).tbu
      = (.holdover, 1638, 2, 502, false)
    ∧ (fun t : Timebase => (t.state, t.counter, t.cInUse, t.seconds)) (after .holdoverExpiry
      (lateSecond fun t => { t with
        state := .holdover, cRef := 16384240, counter := 16385870, seconds := 502, missed := 2,
        holdoverLimit := 2 })).tbu = (.free, 0, 16384000, 503) := by
  decide +kernel

/-- Edge 3 of the acquisition lies below the window. -/
theorem test_early_edge_is_rejected :
    (fun t : Timebase => (t.state, t.lockStreak, t.cRef, t.rejects)) (after .ppsEdge (lateSecond fun t =>
      { t with state := .acquiring, lockStreak := 1, cRef := 16384200, counter := 16380000 })).tbu
      = (.acquiring, 0, 16384200, 1) := by decide +kernel

theorem test_acquiring_timeout :
    (after .acquiringTimeout (lateSecond fun t =>
      { t with state := .acquiring, counter := 16385600 })).tbu.state = .free := by decide +kernel

/-- R58: a transition in the cycle in which an index opens an epoch shows in that label, whichever of the two
is taken first, and one inside an epoch does not. -/
theorem test_transition_shows_in_the_label_opened_with_it :
    (run [.sampleEpoch, .ppsEdge] State.reset).tbu.label.quality = .acquiring
    ∧ (after .ppsEdge (lateSecond id)).tbu.label.quality = .free := by decide +kernel

theorem test_free_run_rollover :
    (fun t : Timebase => (t.counter, t.position, t.seconds)) (after .freeRunRollover (lateSecond fun t =>
      { t with counter := 16383000, seconds := 4294967295 })).tbu = (0, 0, 0) := by decide +kernel

theorem test_set_time_stores_a_pending_value :
    (after (.setTime 7 [1, 4, 3, 2, 1, 0, 0]) State.reset).tbu.pendingSeconds = some 0x01020304 := by
  decide +kernel

theorem test_set_time_clamps_the_limit :
    lastBody (after (.setTime 7 [2, 4, 3, 2, 1, 0, 0]) State.reset)
      = [0, 0, 0, 0, 0, 0, 1, 0, 0, 0, 0, 0, 0] := by decide +kernel

/-! ### The travel-time store (04_…, its worked case) -/

theorem test_pointer_walks_on :
    (storeDelays [1, 2, 3, 4, 5] { node := 4095, channel := 46, mode := .advance } .powerOn).1
      = { node := 0, channel := 3, mode := .advance } := by decide +kernel

theorem test_pointer_wraps :
    (storeDelays [1, 2, 3, 4, 5] { node := 10, channel := 45, mode := .wrap } .powerOn).1
      = { node := 10, channel := 2, mode := .wrap }
    ∧ (storeDelays (List.replicate 100 7) { node := 10, channel := 0, mode := .wrap } .powerOn).1
      = { node := 10, channel := 4, mode := .wrap } := by decide +kernel

theorem test_table_pointer :
    (after (.tablePointer 7 [0xBC, 0x02, 0, 1]) (withTables 3 2)).tts.pointer
      = { node := 700, channel := 0, mode := .advance } := by decide +kernel

theorem test_table_write_goes_to_the_shadow_bank :
    (fun t : TableStore => (t.bankB.delay 0 1, t.bankA.delay 0 1))
      (after (.tableWrite 7 [2, 0, 14, 19]) (withTables 3 2)).tts = (19, 255) := by decide +kernel

theorem test_table_write_refuses_245 :
    lastBody (after (.tableWrite 7 [2, 0, 14, 245]) (withTables 3 2)) = [3] := by decide +kernel

theorem test_table_read_walks_as_advance :
    lastBody (after (.tableRead 7 [1, 0, 0, 47, 2, 0])
      ((withTables 3 2).withTts { (withTables 3 2).tts with
        bankB := ((({ Bank.powerOn with count := 2 } : Bank).setDelay 0 47 10).setDelay 1 0 11).setRegion 1 5 }))
      = [0, 1, 0, 2, 0, 0, 0, 47, 2, 0, 0, 5, 10, 11] := by decide +kernel

theorem test_bank_size : (after (.bankSize 7 [0x58, 0x02]) (withTables 3 2)).tts.bankB.count = 600 := by
  decide +kernel

theorem test_region_map :
    (fun b : Bank => [b.region 699, b.region 700, b.region 719, b.region 720])
      (after (.regionMap 7 [0xBC, 0x02, 0xCF, 0x02, 5]) (withTables 3 2)).tts.bankB = [0, 5, 5, 0] := by
  decide +kernel

/-- 2000 nodes: slice 32 copies the last 16. -/
theorem test_copy_slices :
    (fun t : TableStore => (t.copy.map CopyJob.copied, t.round.map Round.cyclesLeft))
      (after (.bankCopy 7 []) ((withTables 2000 0).withMdc { mode := .listening, countdown := 0 })).tts
      = (some 0, some 1024)
    ∧ ({ toCopy := 2000, copied := 1984 } : CopyJob).slice = 16 := by decide +kernel

theorem test_copy_slice_ends_the_job :
    (fun t : TableStore => (t.copy, t.bankB.count, t.round)) (after .copySlice (slicing 3 2)).tts
      = (none, 3, none) := by decide +kernel

theorem test_bank_activate_in_a_run :
    (fun s : State => (s.tts.swapPending, s.tts.active, lastBody s))
      (after (.bankActivate 7 []) (passing 0 .idle)) = (true, .a, [0, 0, 1]) := by decide +kernel

theorem test_read_grant_answers :
    (fun s : State => (s.cpt.executing, lastBody s)) (after .readGrant (granting 128))
      = (none, [0, 0, 1, 3, 0, 2, 0, 47, 2, 0, 0, 0, 255, 255]) := by decide +kernel

/-! ### The stacking engine (05_…, its worked cases) -/

/-- Node 17 of the worked case: channels 0 to 7, origin 5000, region 3. -/
def stackCase : Stack :=
  let entries : List (Nat × Nat × Nat × Bool × Bool × Bool × Nat × Nat) :=
    [(12, 148, 64, true, true, true, 4, 32), (15, 151, 40, true, true, true, 2, 32),
      (19, 155, 20, true, true, true, 1, 32), (255, 135, 99, true, true, true, 3, 32),
      (14, 150, 90, true, false, true, 8, 32), (16, 152, 71, false, true, true, 3, 32),
      (22, 158, 55, true, true, true, 0, 48), (13, 149, 0, false, true, false, 5, 32)]
  let row (k : Fin 48) := entries.getD k.val (255, 0, 0, false, false, false, 0, 0)
  let bank := (List.range 8).foldl (fun b k =>
      b.setDelay 17 k (byte (entries.getD k (255, 0, 0, false, false, false, 0, 0)).1))
    (Bank.powerOn.setRegion 17 3)
  let ccu : Conditioner := { Conditioner.powerOn with
    channels := Vector.ofFn fun k => { Channel.powerOn with
      cfRing := [((row k).2.1, { value := (row k).2.2.1, valid := (row k).2.2.2.1 })] } }
  let p : PassContext := { (State.reset.passContext 5000) with
    channels := Vector.ofFn fun k =>
      { member := (row k).2.2.2.2.1, inService := (row k).2.2.2.2.2.1, weight := (row k).2.2.2.2.2.2.1,
        trigger := (row k).2.2.2.2.2.2.2 }
    regions := Vector.replicate 16 { mayFire := true, declareLevel := 40, coincidence := 3, minWeight := 6 } }
  p.stackOf ccu bank 17

theorem test_stack_of_one_node : stackCase = { m := 50, c := 3, wsum := 7, fires := true } := by
  decide +kernel

/-- The nodes of region 3 in index order: 17 (50, 3), 212 (53, 3), 340 (53, 4), 355 (53, 4). -/
theorem test_region_bests :
    (Best.yieldsTo (some (bestOf 17 50 3)) 53 3, Best.yieldsTo (some (bestOf 212 53 3)) 53 4,
      Best.yieldsTo (some (bestOf 340 53 4)) 53 4) = (true, true, false) := by decide

/-- A fifth origin discards the head of the queue. -/
theorem test_origin_queue_overruns :
    (fun e : Engine => (e.origins, e.skippedSince, e.skippedTotal))
      ({ Engine.powerOn with origins := [3, 4, 5, 6] }.append 7) = ([4, 5, 6, 7], 1, 1) := by decide

theorem test_pass_start_takes_the_head :
    (fun e : Engine => (e.origins, e.skippedSince, e.pass.map PassContext.origin))
      (after .passStart (busyTables.withStk { busyTables.stk with origins := [4, 5], skippedSince := 2 })).stk
      = ([5], 0, some 4) := by decide +kernel

theorem test_pass_end_counts_the_pass :
    (fun e : Engine => (e.pass.isNone, e.passCount)) (after .passEnd (passing 0 .idle)).stk = (true, 1) := by
  decide +kernel

theorem test_dead_count_ends :
    (after (.deadCountEnd 3) (passing 1 (.dead 2))).evb.regions[3].slot = .idle := by decide +kernel

/-- The passes 9001 and 9003 of the worked block: the countdown, then a kept value with the gap flag. -/
theorem test_monitor_gap_and_countdown :
    (fun e : Engine => (e.countdown, e.block.values.length, e.block.gap))
      (State.offerTap (State.reset.withStk { State.reset.stk with
          tapSkip := 1
          block := { MonitorBlock.empty with
            values := List.replicate 29 { m := 1, valid := true, fired := false } } })
        { State.reset.passContext 9003 with tapEnabled := true, skippedBefore := 1 } (resultOf 9003 1 none)
        { m := 2, valid := true, fired := false }).stk = (1, 30, true) := by decide +kernel

theorem test_set_monitor_sets_the_tap :
    lastBody (after (.setMonitor 7 [1, 2, 0, 99]) (withTables 3 2)) = [0, 1, 2, 0, 63] := by decide +kernel

/-! ### The event builder (06_…, its worked cases) -/

/-- Region 3 after these results in turn: origin, skipped-before, best. -/
def takes (rs : List (Nat × Nat × Option Best)) : State :=
  rs.foldl (fun s r => s.takePassResult (resultOf r.1 r.2.1 r.2.2)) (withSlot .idle)

/-- Origins 5000 to 5004 of the worked case. -/
theorem test_candidate_follows_its_origins :
    (match (takes [(5000, 0, some (bestOf 340 53 4)), (5001, 0, some (bestOf 340 61 4)),
        (5003, 1, some (bestOf 355 61 9)), (5004, 0, none)]).evb.regions[3].slot with
      | .opened c => (c.span, c.firings, c.quiet, c.peakOrigin, c.peakNode, c.peakM, c.gap)
      | .idle | .dead _ => (0, 0, 0, 0, 0, 0, false))
      = (5, 3, 1, 5001, 340, 61, true) := by decide +kernel

/-- Three origins without a firing close the candidate for QUIET and leave dead count 2. -/
theorem test_candidate_closes_for_quiet :
    (fun s : State => (s.evb.regions[3].slot, s.evb.eventCounter, s.rpq.summaries.length,
      s.exu.jobs.map fun j => j.channels.length))
      (takes [(5000, 0, some (bestOf 340 53 4)), (5001, 0, none), (5002, 0, none), (5003, 0, none)])
      = (.dead 2, 2, 1, [0]) := by decide +kernel

/-- A full summary queue loses the event and counts it. -/
theorem test_full_queue_loses_the_event :
    (fun b : Builder => (b.eventCounter, b.lostBefore, b.lostTotal))
      ((withSummaries 64).declareEvent 3 .quiet candidate).evb = (2, 1, 1) := by decide +kernel

theorem test_set_region_clamps :
    lastBody (after (.setRegion 7 [3, 1, 0, 99, 0, 0, 3, 2, 0, 0xFF, 0xFF]) State.reset)
      = [0, 3, 1, 1, 48, 1, 0, 3, 8, 0, 0xFF, 0x0F, 1, 0] := by decide +kernel

/-! ### Excerpts and report queues (07_…, its worked cases; 10_…) -/

theorem test_encoding_cases :
    (shiftFor .bits16 100000, encodeSample .bits16 2 99998, encodeSample .bits16 2 (-75003))
      = (2, 25000, -18751)
    ∧ (shiftFor .bits8 100000, encodeSample .bits8 10 99998, encodeSample .bits8 10 (-75003))
      = (10, 98, -73) := by decide +kernel

theorem test_full_scale_saturates :
    (shiftFor .bits16 8388607, encodeSample .bits16 8 8388607) = (8, 32767)
    ∧ (shiftFor .bits8 8388607, encodeSample .bits8 16 8388607) = (16, 127) := by decide +kernel

/-- One budget, three modes: 12 segments of 800 samples. -/
def twelve : List Segment := List.replicate 12 (segmentOf (List.replicate 800 5))

theorem test_fitting :
    (fun f : Fit => (f.width, f.written.length, f.omitted)) (fitSegments .trim 10000 twelve)
      = (.bits16, 6, 6)
    ∧ (fun f : Fit => (f.width, f.written.length, f.omitted)) (fitSegments .coarsen 10000 twelve)
      = (.bits8, 12, 0)
    ∧ (fun f : Fit => (f.width, f.written.length, f.omitted)) (fitSegments .coarsen 8000 twelve)
      = (.bits8, 9, 3) := by decide +kernel

/-- The manual's FETCH-time case of event 118: the range begins at 19,905, and 1,739 epochs are kept. -/
theorem test_cutting :
    (match cutWindow [] (some 24000) 400 1600 { channel := 0, delay := 10, arrival := 20044 } with
      | .segment g => (g.offset, g.samples.length, g.headClip, g.tailClip)
      | .gone | .notReached => (0, 0, false, false)) = (-139, 1739, true, false) := by decide +kernel

theorem test_excerpt_take_waits_for_its_last_epoch :
    (after .excerptTake (withJob (some 1098))).rpq.excerpts.length = 0
    ∧ (fun s : State => (s.exu.jobs.length, s.rpq.excerpts.map fun x => x.bytes.length, s.exu.allowanceLeft))
      (after .excerptTake (withJob (some 1099))) = (0, [32 + 12 + 2 * 102], 32768 - 216) := by decide +kernel

theorem test_set_excerpt_clamps :
    lastBody (after (.setExcerpt 7 [0xFF, 0xFF, 0, 0, 3, 0x10, 0x27]) State.reset)
      = [0, 0xFF, 0x03, 1, 0, 3, 0x10, 0x27, 0, 0x80, 0, 0x80] := by decide +kernel

theorem test_set_attention_judges_the_level :
    (fun s : State => (s.rpq.attn, lastBody s)) (after (.setAttention 7 [2]) (withSummaries 2))
      = (true, [0, 2, 2]) := by decide +kernel

theorem test_fetch_summary_takes_the_head :
    (fun s : State => (s.rpq.summaries.length, s.rpq.attn, (lastBody s).length, (lastBody s).take 4))
      (after (.fetchSummary 7 []) (withSummaries 1)) = (0, false, 97, [0, 0, 1, 0]) := by decide +kernel

theorem test_fetch_excerpt_takes_a_chunk :
    (fun s : State => (s.rpq.headOffset, s.rpq.excerpts.length, (lastBody s).length))
      (after (.fetchExcerpt 7 []) (State.reset.withRpq { State.reset.rpq with
        excerpts := [{ event := 1, origin := 2, label := labelOf 3, bytes := List.replicate 1025 9 }] }))
      = (1024, 1, 1 + 4 + 6 + 7 + 4 + 4 + 2 + 1 + 2 + 4 + 1024) := by decide +kernel

theorem test_fetch_of_an_empty_queue : lastBody (after (.fetchExcerpt 7 []) State.reset) = [6] := by
  decide +kernel

/-! ### The control line (09_…, its worked cases) and the modes (08_…) -/

/-- A read that holds the backlog: frames A to E one after another, the pass still running. -/
def heldBacklog : State :=
  run [.tableRead 0x21 [0, 0, 0, 0, 1, 0], .status 0x22 [], .fetchSummary 0x23 [],
    .setRegion 0x24 [3, 1, 40, 3, 6, 0, 3, 12, 0, 2, 0], .unknownKind 0x7A 0x25 []] (passing 0 .idle)

theorem test_held_backlog :
    (fun c : ControlPort => (c.executing, c.waiting.map Frame.tag, c.transmit.map fun r => (r.tag, r.body),
      c.counters.busys, c.counters.validFrames)) heldBacklog.cpt
      = (some (.tableRead 0x21), [0x22, 0x23], [(0x24, [5]), (0x25, [5])], 2, 5) := by decide +kernel

theorem test_held_backlog_is_answered_in_order :
    (fun c : ControlPort => (c.executing, c.waiting, c.transmit.map Reply.tag))
      (run [.replySent, .replySent, .passEnd, .readGrant] heldBacklog).cpt
      = (none, [], [0x21, 0x22, 0x23]) := by decide +kernel

theorem test_unknown_kind : lastBody (after (.unknownKind 0x7A 0x25 []) State.reset) = [2] := by
  decide +kernel

/-- A whole STATUS frame, byte by byte, is answered with the 452 bytes of the snapshot. -/
theorem test_rx_bytes_of_a_status_frame :
    (lastBody (run ((frameBytes 0x01 0x22 []).map fun b => .rxByte b true) State.reset)).length = 453 := by
  decide +kernel

theorem test_line_error_drops_the_frame :
    (fun c : ControlPort => (c.receiver, c.counters.lineErrors))
      (after (.rxByte 0x10 false) (receiving (frameAt 9))).cpt = (.hunting, 1) := by decide +kernel

/-- The check of the nine digits "123456789" under R173's rule, worked by hand. -/
theorem test_frame_check :
    checkOf [0x31, 0x32, 0x33, 0x34, 0x35, 0x36, 0x37, 0x38, 0x39] = 0x29B1 := by decide +kernel

/-- The stalled frame. -/
theorem test_gap_timeout :
    (fun c : ControlPort => (c.receiver, c.counters.gapDrops))
      (after .gapTimeout (receiving (frameAt 9))).cpt = (.hunting, 1) := by decide +kernel

theorem test_reset_takes_effect_at_the_end_of_its_reply :
    (fun s : State => (s.mode, s.cpt.resetPending, s.cpt.transmit))
      (run [.reset 7 [], .replySent] (inMode .priming)) = (.standby, false, []) := by decide +kernel

theorem test_status_changes_nothing_but_the_port :
    (after (.status 7 []) State.reset).withCpt State.reset.cpt = State.reset := by decide +kernel

theorem test_set_acquisition :
    (fun s : State => (s.ccu.decimation, s.ccu.staShift, s.ccu.ltaShift, s.tbu.fsSetting, s.tbu.fsInForce))
      (after (.setAcquisition 7 [3, 0, 1, 4]) State.reset) = (0, 1, 4, 3, 2) := by decide +kernel

theorem test_set_acquisition_needs_standby :
    lastBody (after (.setAcquisition 7 [3, 0, 1, 4]) (inMode .priming)) = [4] := by decide +kernel

theorem test_set_channel_clamps :
    lastBody (after (.setChannel 7 [12, 3, 0, 0x0C, 99, 48, 64, 16, 0, 0, 0]) State.reset)
      = [0, 12, 3, 0, 0x0C, 15, 48, 64, 16, 0, 1, 1] := by decide +kernel

theorem test_channel_report_clears_on_request :
    (fun s : State => (s.ccu.channels[12].heldCount, (lastBody s).length))
      (after (.channelReport 7 [12, 1]) (withChannel fun c => { c with heldCount := 5 })) = (0, 59) := by
  decide +kernel

/-- START with D = 4, s = 3, l = 9 and 1,800 nodes: priming count 512. -/
theorem test_start :
    (fun s : State => (s.mode, s.mdc.countdown, lastBody s)) (after (.start 7 []) (withTables 1800 0))
      = (.priming, 512, [0, 0, 2, 0, 0x08, 0x07, 4, 3, 9]) := by decide +kernel

/-- STOP with tick count 511 in PRIMING. -/
theorem test_stop :
    (fun s : State => (s.mode, lastBody s)) (after (.stop 7 []) { inMode .priming with
      ccu := { State.reset.ccu with tickCount := 511 } }) = (.standby, [0, 1, 0xFF, 1, 0, 0, 0, 0]) := by
  decide +kernel

/-- LISTENING with the engine idle in the instant of a STOP, its swap to bank B (2 nodes) left pending. -/
def swapLeft : State := after (.stop 7 []) ((passing 0 .idle).withTts
  { (passing 0 .idle).tts with swapPending := true })

/-- START first: the reply names bank A, and the next event of the part's own finds the swap made in PRIMING. -/
theorem test_start_before_the_swap_left_pending :
    (fun s : State => (lastBody s).drop 3) (after (.start 8 []) swapLeft) = [0, 3, 0, 4, 3, 9]
    ∧ (fun s : State => (s.mode, s.tts.active, s.tts.swapPending))
      (run [.start 8 [], .sampleEpoch] swapLeft) = (.priming, .b, false) := by decide +kernel

/-- Swap first: the reply names bank B. -/
theorem test_swap_left_pending_before_the_start :
    (fun s : State => (lastBody s).drop 3) (run [.sampleEpoch, .start 8 []] swapLeft)
      = [1, 2, 0, 4, 3, 9] := by decide +kernel

theorem test_power_on_reset_reads_the_straps :
    (fun s : State => (s.mode, s.cpt.lineRate)) (after (.powerOnReset true false) (inMode .listening))
      = (.standby, .baud921600) := by decide +kernel

/-- Two engine cycles pass in a reference cycle. -/
theorem test_idle_step_passes_time :
    (fun s : State => (s.tbu.position, s.stk.pass.map PassContext.cycles))
      (match step (passing 0 .idle) with
        | .next t => t
        | .fault _ | .refused _ => State.reset) = (1, some 4) := by decide +kernel

/-! ### Witnesses: the machine and the trunks -/

theorem witness_StepRunsTheFrontCommand :
    (State.reset.withPending [.ppsEdge, .passStart]).pending = .ppsEdge :: [.passStart] := rfl

theorem witness_EmptyQueueLetsTimePass :
    (State.reset.pending = [] ∧ State.reset.dueEvent = none ∧ State.reset.cpt.receiver = .hunting)
    ∧ State.reset.roundDue = false ∧ swapLeft.pending = [] ∧ swapLeft.roundDue = true
    ∧ (State.reset.withTbu { State.reset.tbu with position := 8192 }).roundDue = false
    ∧ ((receiving (frameAt 1)).dueEvent = none ∧ (receiving (frameAt 1)).cpt.receiver = .inFrame (frameAt 1))
    ∧ (State.reset.withTbu { State.reset.tbu with position := 8192 }).dueEvent = some .sampleEpoch := by
  decide +kernel

theorem witness_EveryCommandCompletesAndKeepsTheQueue :
    (Instr.readGrant ∈ ownEvents ∧ ∀ n, ¬ State.reset.comesIn .readGrant n)
    ∧ State.reset.roundDue = false ∧ (passing 0 (.dead 2)).roundDue = false ∧ swapLeft.roundDue = true
    ∧ ∀ n, ¬ (passing 0 (.dead 2)).comesIn (.deadCountEnd 3) n := by
  have h1 : State.reset.dueIn .readGrant = none := by decide +kernel
  have h2 : (passing 0 (.dead 2)).dueIn (.deadCountEnd 3) = none := by decide +kernel
  have h3 : State.reset.roundDue = false ∧ (passing 0 (.dead 2)).roundDue = false
    ∧ swapLeft.roundDue = true := by decide +kernel
  refine ⟨⟨by decide, fun n h => ?_⟩, h3.1, h3.2.1, h3.2.2, fun n h => ?_⟩
  · rw [State.comesIn, h1] at h
    exact absurd h.1 (by simp)
  · rw [State.comesIn, h2] at h
    exact absurd h.1 (by simp)

theorem witness_TrunkBitIsTaken :
    ((withTrunk id).trx[(1 : Fin 6)].state = .arming)
    ∧ (withTrunk fun t => { t with state := .complete }).trx[(1 : Fin 6)].state = .complete
    ∧ (withTrunk fun t => { t with state := .rejected }).trx[(1 : Fin 6)].state = .rejected
    ∧ ∀ st ∈ [TrunkState.waiting, .assembling], ∀ n ∈ [0, 6, 7],
      (withTrunk fun t => { t with state := st, bitCount := n }).trx[(1 : Fin 6)].state = st
      ∧ (withTrunk fun t => { t with state := st, bitCount := n }).trx[(1 : Fin 6)].bitCount = n := by
  decide +kernel

theorem witness_TrunkByteIsCheckedOrStored :
    ∀ st ∈ [TrunkState.arming, .waiting, .assembling, .complete, .rejected],
      (withTrunk fun t => { t with state := st, byteCount := 25 }).trx[(1 : Fin 6)].bitCount = 0
      ∧ (withTrunk fun t => { t with state := st, byteCount := 25 }).trx[(1 : Fin 6)].state = st := by
  decide +kernel

theorem witness_FallOfFvKeepsWholeBytes :
    ∀ st ∈ [TrunkState.arming, .waiting, .assembling, .complete, .rejected], ∀ fv ∈ [true, false],
      (withTrunk fun t => { t with state := st, fv := fv }).trx[(1 : Fin 6)].state = st
      ∧ (withTrunk fun t => { t with state := st, fv := fv }).trx[(1 : Fin 6)].fv = fv := by
  decide +kernel

/-! ### Witnesses: the epoch event -/

/-- LISTENING with channel 12 in this state, its record enabled or not, trunk 1 ASSEMBLING with this many
bytes: with 17 slot 4 is complete, with 16 it is not. -/
def handing (st : ChannelState) (enabled : Bool) (bytes : Nat) : State :=
  { listening (fun c => { c with state := st, record := { c.record with enabled := enabled } }) with
    trx := State.reset.trx.set 1 { Trunk.powerOn with state := .assembling, byteCount := bytes } }

theorem witness_SampleEpochIssuesTheNextIndex :
    (State.reset.comesIn .sampleEpoch 8192
      ∧ State.reset.tbu.position ≤ (State.reset.tbu.sampleIndex + 1) * State.reset.tbu.q
        + min (State.reset.tbu.sampleIndex + 1) State.reset.tbu.r)
    ∧ (lateSecond fun t => { t with sampleIndex := 1998, position := 1999 * 8192 }).comesIn .sampleEpoch 0 := by
  decide +kernel

theorem witness_HandoverWritesEverySample :
    (handing .live true 17).comesIn .sampleEpoch 8192 ∧ (handing .live true 17).mode ≠ .standby
    ∧ (handing .live true 17).ccu.openEpoch = some 103 ∧ (handing .live true 17).storageWf
    ∧ ((handing .live true 17).trunkOf 12).slotComplete (12 % 8)
    ∧ (handing .live true 16).storageWf ∧ ¬ ((handing .live true 16).trunkOf 12).slotComplete (12 % 8) := by
  have full : ((handing .live true 17).trunkOf 12).byteCount = 17 := by decide +kernel
  have short : ((handing .live true 16).trunkOf 12).byteCount = 16
      ∧ ((handing .live true 16).trunkOf 12).state ≠ .complete := by decide +kernel
  have runs : (handing .live true 17).comesIn .sampleEpoch 8192 ∧ (handing .live true 17).mode ≠ .standby
      ∧ (handing .live true 17).ccu.openEpoch = some 103 := by decide +kernel
  refine ⟨runs.1, runs.2.1, runs.2.2, by decide +kernel, Or.inr ?_, by decide +kernel, ?_⟩
  · rw [full]
    decide
  · rintro (h | h)
    · exact short.2 h
    · rw [short.1] at h
      exact absurd h (by decide)

theorem witness_HandoverStepsTheChannelState :
    ((inMode .standby).comesIn .sampleEpoch 8192 ∧ (inMode .standby).mode = .standby)
    ∧ ((inMode .priming).comesIn .sampleEpoch 8192 ∧ (inMode .priming).ccu.openEpoch = none)
    ∧ (∀ st ∈ [ChannelState.disabled, .live, .stale, .recovering], ∀ en ∈ [true, false], ∀ b ∈ [16, 17],
      (handing st en b).comesIn .sampleEpoch 8192 ∧ (handing st en b).mode ≠ .standby
      ∧ (handing st en b).ccu.openEpoch ≠ none ∧ (handing st en b).ccu.channels[(12 : Fin 48)].state = st
      ∧ (handing st en b).ccu.channels[(12 : Fin 48)].record.enabled = en)
    ∧ (∀ st ∈ [ChannelState.disabled, .live, .stale, .recovering],
      (((handing st true 17).trunkOf 12).state = .complete ∨ 17 ≤ ((handing st true 17).trunkOf 12).byteCount)
      ∧ ¬ (((handing st true 16).trunkOf 12).state = .complete
        ∨ 17 ≤ ((handing st true 16).trunkOf 12).byteCount)) := by
  decide +kernel

theorem witness_HandoverAccumulatesTheTick :
    (handing .live true 17).comesIn .sampleEpoch 8192 ∧ (handing .live true 17).mode ≠ .standby
    ∧ (handing .live true 17).ccu.openEpoch = some 103 ∧ (handing .live true 17).storageWf
    ∧ 4 = 2 ^ (handing .live true 17).ccu.decimation.val ∧ 103 % 4 = 4 - 1 := by
  decide +kernel

theorem witness_CalibrationRoundsHalfUpAndSaturates :
    ((31 : Nat) < 32 ∧ (2047 : Nat) < 2048 ∧ (-8388608 : Int) ≤ 8388607)
    ∧ calibrateSaturates (2048 * 0 + 2047) 8388607 = true := by
  decide +kernel

/-- The completion of a tick with channel 12 as given. -/
def completing (m : Mode) (f : Channel → Channel) : State :=
  { listening f with
    mdc := { mode := m, countdown := 1 }
    ccu := { (listening f).ccu with tickCount := 511, stage := .completion } }

theorem witness_TickCompletionFormsEveryEntry :
    (∀ st ∈ [ChannelState.disabled, .live], ∀ held ∈ [true, false], ∀ freeze ∈ [0, 1],
      (completing .listening fun c =>
        { c with state := st, heldInTick := held, record := { c.record with freeze := freeze } }).ccu.stage
        = .completion
      ∧ (completing .listening fun c =>
        { c with state := st, heldInTick := held, record := { c.record with freeze := freeze } }).roundDue = false
      ∧ (completing .listening fun c =>
        { c with state := st, heldInTick := held, record := { c.record with freeze := freeze } }).storageWf) := by
  decide +kernel

theorem witness_TickCompletionCountsDownOrAppends :
    (completing .listening id).ccu.stage = .completion ∧ (completing .listening id).mode = .listening
    ∧ (completing .listening id).roundDue = false ∧ (completing .priming id).roundDue = false
    ∧ (completing .priming id).ccu.stage = .completion ∧ (completing .priming id).mode = .priming
    ∧ ((completing .listening id).withStk { State.reset.stk with origins := [267, 268, 269, 270] }).ccu.stage
      = .completion
    ∧ ((completing .listening id).withStk { State.reset.stk with origins := [268, 269, 270] }).stk.origins.length
      < 4 := by
  decide +kernel

/-- The instant at which priming ends: tick 511 completed, the countdown at 0. -/
def primed : State :=
  { State.reset with
    mdc := { mode := .priming, countdown := 0 }
    ccu := { State.reset.ccu with
      openEpoch := some 2048, newestEpoch := some 2047, tickCount := 512, stage := .primingEnd } }

theorem reset_inBounds : State.reset.tbu.inBounds := by
  have free : State.reset.tbu.state = .free := rfl
  unfold Timebase.inBounds
  simp only [Timebase.counterInBounds, free]
  decide +kernel

theorem primed_runInOrder : primed.runInOrder := by
  have queue : primed.stk.origins = [] := rfl
  have modes : (primed.mode ≠ .listening → primed.stk.origins = [])
      ∧ (primed.mode = .listening → 256 ≤ primed.ccu.tickCount)
      ∧ (primed.mode = .priming → primed.ccu.tickCount + primed.mdc.countdown = primingCount primed.ccu.ltaShift)
      ∧ (primed.ccu.stage = .primingEnd → primed.mode = .priming ∧ primed.mdc.countdown = 0)
      ∧ (primed.mode = .priming → primed.mdc.countdown = 0 → primed.ccu.stage = .primingEnd)
      ∧ primed.stageOfThisCycle := by decide +kernel
  unfold State.runInOrder
  rw [queue] at modes ⊢
  obtain ⟨m1, m2, m3, m4, m5, m6⟩ := modes
  exact ⟨Nat.zero_le 4, trivial, fun o h => (nomatch h), m1, m2, m3, m4, m5, m6, reset_inBounds⟩

theorem witness_TickCompletionCountsDownOrAppends_primingEnd :
    primed.ccu.stage = .primingEnd ∧ primed.roundDue = false ∧ primed.runInOrder :=
  ⟨rfl, by decide +kernel, primed_runInOrder⟩

/-! ### Witnesses: the timebase -/

theorem witness_PpsEdgeOutsideMarks :
    (State.reset.tbu.state = .free
      ∧ State.reset.tbu.position = State.reset.tbu.issueAt State.reset.tbu.sampleIndex)
    ∧ ((lateSecond id).tbu.state = .free
      ∧ (lateSecond id).tbu.position ≠ (lateSecond id).tbu.issueAt (lateSecond id).tbu.sampleIndex)
    ∧ (∀ c ∈ [16382361, 16382362, 16385638],
      (lateSecond fun t => { t with state := .acquiring, counter := c, lockStreak := 2 }).tbu.state = .acquiring
      ∧ (lateSecond fun t => { t with state := .acquiring, counter := c, lockStreak := 2 }).tbu.lockStreak < 3
      ∧ (lateSecond fun t => { t with state := .acquiring, counter := c, lockStreak := 2 }).tbu.counter ≤ 16385638)
    ∧ (∀ st ∈ [TimebaseState.locked, .holdover],
      (lateSecond fun t => { t with state := st, counter := 16382361 }).tbu.counter + 1638
        < (lateSecond fun t => { t with state := st, counter := 16382361 }).tbu.cRef) := by
  decide +kernel

theorem witness_PpsMarkBeginsASecond :
    (∀ c ∈ [16382362, 16385638], ∀ st ∈ [TimebaseState.acquiring, .locked, .holdover],
      (fun t : Timebase => t.position ≠ 0 ∧ t.state = st ∧ 16382362 ≤ t.counter ∧ t.counter ≤ 16385638
        ∧ t.lockStreak = 3 ∧ t.cRef ≤ t.counter + 1638 ∧ t.counter ≤ t.cRef + 1638)
        (lateSecond fun t => { t with state := st, counter := c, lockStreak := 3 }).tbu) := by
  decide +kernel

theorem witness_TimebaseMarksAndTimeouts :
    (lateSecond fun t => { t with state := .acquiring, counter := 16385600 }).comesIn .acquiringTimeout 38
    ∧ (fun s : State => s.comesIn .acquiringTimeout 0 ∧ s.tbu.position + 0 = s.tbu.issueAt s.tbu.sampleIndex)
      (lateSecond fun t => { t with state := .acquiring, counter := 16385638, position := 1999 * 8192 })
    ∧ (lateSecond id).comesIn .freeRunRollover 1000 ∧ (lateSecond id).tbu.position + 1000 ≠ 0
    ∧ (lateSecond fun t => { t with state := .locked, counter := 16385600 }).comesIn .holdoverEntry 38
    ∧ (∀ m ∈ [599, 600],
      (lateSecond fun t => { t with state := .holdover, counter := 16385600, missed := m }).comesIn
        .holdoverExpiry 38)
    ∧ (lateSecond id).tbu.holdoverLimit = 600 := by
  decide +kernel

theorem witness_ScheduleFillsTheSecond :
    (fun t : Timebase => t.q = t.cInUse / fsOf t.fsInForce ∧ t.r = t.cInUse - t.q * fsOf t.fsInForce)
      { Timebase.powerOn with cInUse := 16384150, q := 8192, r := 150 } := by decide +kernel

/-- Whether a step answers a next state. -/
def answers (s : State) : Bool :=
  match step s with
  | .next _ => true
  | .fault _ | .refused _ => false

theorem next_of_answers {s : State} (h : answers s = true) : ∃ t, step s = .next t := by
  unfold answers at h
  split at h
  · exact ⟨_, ‹_›⟩
  · exact absurd h (by simp)
  · exact absurd h (by simp)

theorem witness_TimebaseStaysInItsWindows :
    State.reset.tbu.inBounds ∧ State.reset.tbu.labelInOrder ∧ ∃ t, step State.reset = .next t :=
  ⟨reset_inBounds, ⟨rfl, fun _ => rfl⟩, next_of_answers (by decide +kernel)⟩

theorem witness_SetTimeStoresPendingSecondsAndLimit :
    State.reset.ready ∧ (4294967295 : Nat) < 2 ^ 32 ∧ (0 : Nat) < 65536 ∧ 1 = max 1 (min 3600 0)
    ∧ 3600 = max 1 (min 3600 65535) ∧ 2 < (3 : Byte).toNat := by decide +kernel

/-! ### Witnesses: the travel-time store -/

theorem witness_TablePointerIsStored :
    State.reset.ready ∧ (4095 : Nat) < 4096 ∧ (47 : Nat) < 48 ∧ 4096 ≤ (4096 : Nat) ∧ (4096 : Nat) < 65536
    ∧ 48 ≤ (48 : Nat) ∧ 2 ≤ (2 : Byte).toNat := by decide +kernel

theorem witness_TableWriteStoresOrRefuses :
    (withTables 3 2).ready ∧ (withTables 3 2).tts.locked = false
    ∧ (slicing 3 0).ready ∧ (slicing 3 0).tts.locked = true
    ∧ ([] : List Byte).length = 0 ∧ 1024 < (List.replicate 1025 (0 : Byte)).length
    ∧ (List.replicate 1025 (0 : Byte)).length ≤ 1150
    ∧ (∃ d ∈ [(239 : Byte), 240], 240 ≤ d.toNat ∧ d.toNat ≤ 254)
    ∧ (∀ d ∈ List.replicate 1023 (239 : Byte) ++ [255], d.toNat < 240 ∨ d.toNat = 255)
    ∧ (List.replicate 1023 (239 : Byte) ++ [255]).length ≤ 1024 := by decide +kernel

theorem witness_StoredDelaysFollowThePointer :
    Bank.powerOn.storageWf ∧ ([1, 2] : List Byte).length ≤ 1024
    ∧ (storeDelays [1, 2] { node := 4095, channel := 47, mode := .advance } .powerOn).1
      = { node := 0, channel := 1, mode := .advance }
    ∧ (storeDelays [1, 2] { node := 4095, channel := 47, mode := .wrap } .powerOn).1
      = { node := 4095, channel := 1, mode := .wrap } := by decide +kernel

theorem witness_BankSizeAndRegionMapEditTheShadow :
    (withTables 3 2).ready ∧ (withTables 3 2).tts.locked = false
    ∧ (withTables 3 2).tts.shadowBank.storageWf ∧ 4096 < (4097 : Nat) ∧ (4095 : Nat) ≤ 4095
    ∧ (15 : Nat) < 16 ∧ 16 ≤ (16 : Nat) ∧ 4096 ≤ (4096 : Nat) := by decide +kernel

theorem witness_TableReadIsTakenOrWaits :
    (withTables 3 2).ready ∧ (withTables 3 2).mode = .standby
    ∧ readOf.node < 4096 ∧ readOf.channel < 48 ∧ 1 ≤ readOf.count ∧ readOf.count ≤ 1024
    ∧ (passing 0 .idle).ready ∧ (passing 0 .idle).stk.pass ≠ none ∧ readOf.bank = (passing 0 .idle).tts.active
    ∧ (passing 0 .idle).mode ≠ .standby
    ∧ busyTables.ready ∧ busyTables.mode ≠ .standby ∧ busyTables.stk.pass = none
    ∧ busyTables.stk.origins = [] ∧ busyTables.tts.round = none ∧ busyTables.tts.swapPending = false
    ∧ (fun s : State => s.ready ∧ s.mode ≠ .standby ∧ s.stk.pass = none ∧ s.stk.origins = []
        ∧ s.tts.round = none ∧ s.tts.swapPending = true ∧ readOf.bank = s.tts.active)
      (swapLeft.withMdc { mode := .priming, countdown := 512 })
    ∧ { readOf with count := 1024 }.count ≤ 1024 ∧ 1024 < { readOf with count := 1025 }.count
    ∧ { readOf with bank := .b }.bank ≠ busyTables.tts.active := by decide +kernel

theorem witness_ReadGrantAnswersTheRead :
    (granting 128).comesIn .readGrant 64 ∧ (granting 128).tts.waitingRead = some readOf
    ∧ readOf.node < 4096 ∧ readOf.channel < 48 ∧ (granting 128).cpt.executing = some (.tableRead 9)
    ∧ (granting 128).tts.swapPending = false ∧ (granting 128).cpt.waiting = []
    ∧ (granting 128).cpt.transmit.length < 4
    ∧ (fun s : State => s.comesIn .readGrant 64 ∧ ¬ s.cpt.transmit.length < 4 ∧ s.tts.copy ≠ none)
      { granting 128 with
        tts := { (granting 128).tts with copy := some { toCopy := 3, copied := 0 } }
        cpt := { (granting 128).cpt with
          transmit := List.replicate 4 { kind := 0x81, tag := 2, body := [0] } } } := by decide +kernel

theorem witness_BankCopyCopiesBySlices :
    ((withTables 3 2).ready ∧ (withTables 3 2).tts.locked = false ∧ (withTables 3 2).tts.waitingRead = none)
    ∧ ∀ total ∈ [64, 65],
      (slicing total 0).comesIn .copySlice 512
      ∧ (slicing total 0).tts.copy = some { toCopy := total, copied := 0 } ∧ (slicing total 0).storageWf
      ∧ (slicing total 0).tts.swapPending = false := by decide +kernel

theorem witness_BankActivateSwapsOrWaits :
    (withTables 3 0).ready ∧ (withTables 3 0).tts.shadowBank.count = 0
    ∧ (∀ s ∈ [withTables 3 2, busyTables, passing 0 .idle],
      s.ready ∧ s.tts.locked = false ∧ s.tts.waitingRead = none ∧ s.tts.shadowBank.count ≠ 0)
    ∧ (withTables 3 2).mode = .standby
    ∧ (busyTables.stk.pass = none ∧ busyTables.stk.origins = [] ∧ busyTables.tts.round = none)
    ∧ ((passing 0 .idle).mode ≠ .standby ∧ (passing 0 .idle).stk.pass ≠ none) := by decide +kernel

theorem witness_TableInServiceIsNeverEmpty :
    (passing 0 .idle).tableInService ∧ ∃ t, step (passing 0 .idle) = .next t :=
  ⟨by decide +kernel, next_of_answers (by decide +kernel)⟩

/-! ### Witnesses: the stacking engine -/

theorem witness_PassStartFixesTheContext :
    (fun s : State => s.stk.pass = none ∧ s.tts.round = none ∧ s.stk.origins = 4 :: [5])
      (busyTables.withStk { busyTables.stk with origins := [4, 5] })
    ∧ (passing 0 .idle).stk.pass ≠ none ∧ (slicing 3 0).tts.round ≠ none ∧ busyTables.stk.origins = []
    ∧ busyTables.roundDue = false := by
  decide +kernel

/-- Channel 12 a member in service, its entry of delay 10 valid. -/
def oneChannel : PassContext × Conditioner × Bank :=
  let s := withChannel fun c => { c with
    state := .live, record := { c.record with member := true }, cfRing := [(26, { value := 60, valid := true })] }
  (s.passContext 16, s.ccu, Bank.powerOn.setDelay 0 12 10)

theorem witness_NodeFiresByItsTests :
    ∀ k : Fin 48, k ∈ ({12} : Finset (Fin 48)) ↔ oneChannel.1.channels[k].member = true
      ∧ oneChannel.1.channels[k].inService = true ∧ oneChannel.2.2.delay 0 k ≠ 255
      ∧ (Memory.read .cleared oneChannel.2.1.channels[k].cfRing
        ((oneChannel.1.origin + (oneChannel.2.2.delay 0 k).toNat) % 256)).valid = true := by
  decide +kernel

theorem witness_RegionBestIsTheGreatest (p : PassContext) (ccu : Conditioner) (bank : Bank) :
    ∃ (fires : Nat → Prop) (best : Option Best),
      (∀ n, fires n ↔ n < 4096 ∧ bank.region n = 15 ∧ (p.stackOf ccu bank n).fires = true)
      ∧ best = (p.bestsAfter ccu bank 4096)[(15 : Fin 16)] :=
  ⟨_, _, fun _ => Iff.rfl, rfl⟩

theorem witness_PassEndDeliversAndCounts :
    (∃ p, (passing 0 .idle).stk.pass = some p) ∧ (passing 0 .idle).comesIn .passEnd 11
    ∧ (passing 0 .idle).tts.swapPending = false ∧ (passing 1 (.dead 2)).comesIn (.deadCountEnd 3) 11
    ∧ (fun s : State => s.comesIn .passEnd 11 ∧ s.tts.swapPending = true)
      ((passing 0 .idle).withTts { (passing 0 .idle).tts with swapPending := true }) :=
  ⟨⟨_, rfl⟩, by decide +kernel⟩

/-- A block of this many values, the tap enabled, a summary queue of `n` records. -/
def tapping (values countdown n : Nat) : State :=
  (withSummaries n).withStk { State.reset.stk with
    countdown := countdown
    block := { MonitorBlock.empty with values := List.replicate values { m := 1, valid := true, fired := true } } }

theorem witness_MonitorTapKeepsItsValues :
    ((tapping 30 0 56).stk.block.values.length < 31 ∧ (tapping 30 0 56).stk.countdown = 0)
    ∧ (31 ≤ (tapping 31 0 56).stk.block.values.length ∧ (tapping 31 0 56).rpq.summaries.length ≤ 56)
    ∧ (31 ≤ (tapping 31 0 57).stk.block.values.length ∧ 56 < (tapping 31 0 57).rpq.summaries.length)
    ∧ (tapping 31 1 57).stk.countdown ≠ 0
    ∧ { State.reset.passContext 5 with tapEnabled := true }.tapChanged = false := by decide +kernel

theorem witness_SetMonitorSetsTheTap :
    (withTables 3 2).ready ∧ (1 : Byte).getLsbD 0 = true ∧ (2 : Byte).getLsbD 0 = false
    ∧ 2 < (withTables 3 2).tts.activeBank.count ∧ (withTables 3 2).tts.activeBank.count ≤ 3 := by
  decide +kernel

theorem witness_OriginQueueIsARun : primed.runInOrder ∧ ∃ t, step primed = .next t :=
  ⟨primed_runInOrder, next_of_answers (by decide +kernel)⟩

/-! ### Witnesses: the event builder -/

theorem witness_OriginAdvancesTheRegion :
    (resultOf 5001 0 (some (bestOf 340 54 1))).best[(3 : Fin 16)] = some (bestOf 340 54 1)
    ∧ (resultOf 5001 0 none).best[(3 : Fin 16)] = none
    ∧ (withSlot .idle).evb.regions[(3 : Fin 16)].inForce = true
    ∧ State.reset.evb.regions[(3 : Fin 16)].slot = .idle
    ∧ State.reset.evb.regions[(3 : Fin 16)].inForce = false
    ∧ (∀ span ∈ [10, 11], ∀ quiet ∈ [1, 2],
      (withSlot (.opened { candidate with span := span, quiet := quiet })).evb.regions[(3 : Fin 16)].slot
        = .opened { candidate with span := span, quiet := quiet })
    ∧ (∀ n ∈ [1, 2], (withSlot (.dead n)).evb.regions[(3 : Fin 16)].slot = .dead n)
    ∧ (withSlot .idle).evb.regions[(3 : Fin 16)].record.maxSpan = 12
    ∧ (withSlot .idle).evb.regions[(3 : Fin 16)].record.release = 3 := by decide +kernel

theorem witness_DeadCountRunsOut :
    (∃ p, (passing 1 (.dead 2)).stk.pass = some p) ∧ (passing 1 (.dead 2)).comesIn (.deadCountEnd 3) 11
    ∧ (passing 1 (.dead 1)).comesIn (.deadCountEnd 3) 11
    ∧ (passing 1 (.dead 2)).evb.regions[(3 : Fin 16)].slot = .dead 2
    ∧ (fun s : State => s.comesIn (.deadCountEnd 3) 11 ∧ s.tts.swapPending = true)
      ((passing 1 (.dead 1)).withTts { busyTables.tts with swapPending := true }) :=
  ⟨⟨_, rfl⟩, by decide +kernel⟩

theorem witness_DeclarationIsAdmittedOrLost :
    (withSummaries 63).rpq.summaries.length < 64 ∧ 64 ≤ (withSummaries 64).rpq.summaries.length
    ∧ (withSummaries 63).exu.statusFor .quiet = .queued
    ∧ (withSummaries 63).exu.statusFor .stopped = .notTakenStopped := by decide +kernel

theorem witness_SetRegionStoresTheRecord :
    State.reset.ready ∧ 16 ≤ (16 : Byte).toNat ∧ (15 : Byte).toNat = (15 : Fin 16).val
    ∧ (255 : Nat) < 256 ∧ (65535 : Nat) < 65536 := by decide +kernel

theorem witness_OffRegionsAreIdle :
    (passing 0 (.dead 1)).evb.offIsIdle ∧ ∃ t, step (passing 0 (.dead 1)) = .next t :=
  ⟨by decide +kernel, next_of_answers (by decide +kernel)⟩

/-! ### Witnesses: the excerpt unit and the report queues -/

theorem witness_SetExcerptAndSetAttention :
    State.reset.ready ∧ 4 ≤ (4 : Byte).toNat ∧ (65535 : Nat) < 65536 := by decide +kernel

theorem witness_ExcerptTakeWritesOneExcerpt :
    (withJob (some 1099)).exu.jobs = job :: []
    ∧ (∃ e, (withJob (some 1099)).ccu.newestEpoch = some e
      ∧ ∀ c ∈ job.channels, c.arrival + job.post ≤ e + 1)
    ∧ (withJob (some 1099)).rpq.bytesHeld + 32 ≤ 65536 ∧ (withJob (some 1099)).roundDue = false :=
  ⟨rfl, ⟨1099, rfl, by decide +kernel⟩, by decide +kernel⟩

theorem witness_FittingKeepsTheLongestBeginning :
    totalSize .bits16 twelve ≤ 19344 ∧ 19343 < totalSize .bits16 twelve := by decide +kernel

theorem witness_EncodedSamplesDecodeClosely :
    (segmentOf [8388352]).peak ≤ Width.bits16.top * 2 ^ Width.bits16.maxShift
    ∧ Width.bits16.top * 2 ^ Width.bits16.maxShift < (segmentOf [-8388353]).peak
    ∧ 0 < shiftFor .bits16 (segmentOf [32768]).peak := by decide +kernel

theorem witness_SegmentsAreCutAndOrdered :
    (fun (low newest : Nat) (c : JobChannel) => low = newest - 4095
      ∧ low < c.arrival + 1 ∧ c.arrival ≤ newest + 0) 905 5000 { channel := 0, delay := 0, arrival := 905 }
    ∧ (904 : Nat) + 1 ≤ 905 ∧ 5000 + 0 < (5001 : Nat) := by decide +kernel

theorem witness_FetchesTakeFromTheHead :
    State.reset.ready ∧ State.reset.rpq.summaries = [] ∧ State.reset.rpq.excerpts = []
    ∧ (withSummaries 1).ready ∧ (withSummaries 1).rpq.summaries = summaryOf 0 :: []
    ∧ (∀ n ∈ [1024, 1025], (fun (x : Excerpt) (s : State) => s.ready ∧ s.rpq.excerpts = x :: []
        ∧ decide (s.rpq.headOffset + ((x.bytes.drop s.rpq.headOffset).take 1024).length = x.bytes.length)
          = decide (n = 1024))
      { event := 1, origin := 2, label := labelOf 3, bytes := List.replicate n 9 }
      (State.reset.withRpq { State.reset.rpq with
        excerpts := [{ event := 1, origin := 2, label := labelOf 3, bytes := List.replicate n 9 }] })) := by
  decide +kernel

theorem witness_QueuesStayWithinCapacity :
    ((withSummaries 64).withRpq { (withSummaries 64).rpq with
      excerpts := [{ event := 1, origin := 2, label := labelOf 3, bytes := List.replicate 32 9 }]
      headOffset := 31 }).withinCapacity
    ∧ (withSummaries 64).withinCapacity ∧ ∃ t, step (withSummaries 64) = .next t :=
  ⟨by decide +kernel, by decide +kernel, next_of_answers (by decide +kernel)⟩

/-! ### Witnesses: the control line and the modes -/

theorem witness_FrameBytesReachThePort :
    State.reset.cpt.receiver = .hunting ∧ (List.replicate 1152 (0 : Byte)).length ≤ 1152 := by decide +kernel

theorem witness_ReceiverJudgesBytesAndGaps :
    (receiving { frameAt 4 with length := 128 }).cpt.receiver = .inFrame { frameAt 4 with length := 128 }
    ∧ 1152 < 129 + 256 * (4 : Byte).toNat ∧ ¬ 1152 < 128 + 256 * (4 : Byte).toNat
    ∧ (frameAt 6).position = (frameAt 6).length + 6
    ∧ (frameAt 6).check.toNat = (frameAt 6).checkLow.toNat + 256 * (255 : Byte).toNat
    ∧ (frameAt 6).check.toNat ≠ (frameAt 6).checkLow.toNat + 256 * (254 : Byte).toNat
    ∧ (receiving (frameAt 9)).comesIn .gapTimeout 1 ∧ (frameAt 9).gap ≤ 163840 := by decide +kernel

/-- The port with this many replies queued and frames waiting, a read executing. -/
def queueing (replies waiting : Nat) (e : Option Executing) : State :=
  State.reset.withCpt { State.reset.cpt with
    executing := e
    waiting := List.replicate waiting { kind := 1, tag := 2, body := [] }
    transmit := List.replicate replies { kind := 0x81, tag := 2, body := [0] } }

/-- R168: TXD is high after power-on reset; a reply begins with its start bit (09_…, "Pins and line rate"). -/
theorem test_txd_idles_high_and_starts_low :
    State.reset.cpt.txd = true ∧ (after (.status 7 []) State.reset).cpt.txd = false := by
  refine ⟨rfl, ?_⟩
  have begun : (after (.status 7 []) State.reset).cpt.bitPlace = 0 := by
    have none_yet : (after (.status 7 []) State.reset).cpt.sentFor = 0 := by decide +kernel
    unfold ControlPort.bitPlace clampNat
    rw [none_yet]
    simp
  unfold ControlPort.txd
  rw [begun]
  decide +kernel

theorem witness_FramesWaitTheirTurn :
    State.reset.cpt.transmit = [] ∧ (128 ≤ (128 : Byte).toNat ∧ (127 : Byte).toNat < 128)
    ∧ ((queueing 1 1 (some (.tableRead 9))).cpt.backlog < 3
      ∧ (queueing 1 1 (some (.tableRead 9))).cpt.executing ≠ none)
    ∧ (3 ≤ (queueing 3 2 (some (.tableRead 9))).cpt.backlog
      ∧ (queueing 3 2 (some (.tableRead 9))).cpt.transmit.length < 4)
    ∧ 4 ≤ (queueing 4 2 (some (.tableRead 9))).cpt.transmit.length
    ∧ (∀ e ∈ [none, some (Executing.tableRead 9),
        some (Executing.replyWaiting { kind := 0x81, tag := 3, body := [0] })],
      (queueing 1 1 e).cpt.resetPending = false ∧ (queueing 1 1 e).cpt.executing = e
      ∧ (queueing 1 1 e).cpt.transmit = { kind := 0x81, tag := 2, body := [0] } :: [])
    ∧ (queueing 1 1 none).cpt.waiting = { kind := 1, tag := 2, body := [] } :: [] := by decide +kernel

theorem witness_FramesWaitTheirTurn_epochEvent :
    (∃ u, exec .tickCompletion (completing .listening id) = .next u) ∧ (∃ u, exec .primingEnd primed = .next u)
    ∧ ∀ s ∈ [completing .listening id, primed], s.cpt.executing = none ∧ s.cpt.waiting = []
      ∧ s.cpt.resetPending = false ∧ s.roundDue = false ∧ s.ccu.stage ≠ .none :=
  ⟨⟨_, rfl⟩, ⟨_, rfl⟩, by decide +kernel⟩

theorem witness_SoftResetKeepsTheConfiguration :
    (fun s : State => s.cpt.resetPending = true ∧ s.cpt.transmit = { kind := 0x82, tag := 7, body := [0] } :: [])
      (after (.reset 7 []) (inMode .priming)) := by decide +kernel

theorem witness_StatusAndResetReply :
    (inMode .listening).ready ∧ MonitorBlock.empty.values.length = 0
    ∧ { MonitorBlock.empty with
        values := List.replicate 32 { m := 1, valid := true, fired := true } }.values.length = 32 := by
  decide +kernel

theorem witness_ConditionerRequests :
    State.reset.ready ∧ State.reset.mode = .standby ∧ (inMode .priming).ready
    ∧ (inMode .priming).mode ≠ .standby ∧ (11 : Nat) + 3 ≤ 14 ∧ 7 + 3 ≤ 14 ∧ 1 + 3 ≤ 4
    ∧ 48 ≤ (48 : Byte).toNat ∧ 4 ≤ (4 : Byte).toNat ∧ 7 < (8 : Byte).toNat ∧ (3 : Byte).toNat < 4
    ∧ 14 < (15 : Byte).toNat ∧ (9 : Byte).toNat < (7 : Byte).toNat + 3 := by decide +kernel

theorem witness_StartAndStopTheRun :
    (State.reset.ready ∧ State.reset.tts.activeBank.count = 0)
    ∧ ((withTables 1 0).ready ∧ (withTables 1 0).mode = .standby ∧ (withTables 1 0).tts.activeBank.count ≠ 0
      ∧ (withTables 1 0).takeReady = false)
    ∧ (fun s : State => s.ready ∧ s.tts.activeBank.count ≠ 0 ∧ s.takeReady = true)
      ((withJob (some 1099)).withTts (withTables 1 0).tts)
    ∧ (∀ s ∈ [slicing 3 0, passing 0 .idle], s.ready ∧ s.mode ≠ .standby)
    ∧ (fun s : State => s.stk.pass = none ∧ s.stk.origins = [] ∧ s.tts.swapPending = true
      ∧ s.tts.waitingRead = none ∧ s.tts.copy = none ∧ s.tts.round = none
      ∧ ∀ r : Fin 16, s.evb.regions[r].slot.code ≠ 1) swapLeft := by decide +kernel

theorem witness_RefusedRequestsChangeNothing :
    State.reset.ready ∧ (Request.ofKind 0x7A = none ∧ (0x7A : Byte).toNat < 128)
    ∧ Request.status.lengthOk [0] = false
    ∧ ((slicing 3 0).ready ∧ (slicing 3 0).tts.locked = true ∧ Request.bankSize.lengthOk [0, 0] = true) := by
  decide +kernel

theorem witness_RefusedRequestsChangeNothing_kind : ∀ r : Request, r.kind ≠ 0x7A := by
  intro r
  cases r <;> decide

theorem witness_StorageStaysCanonical :
    (handing .live true 17).storageWf ∧ ∃ t, step (handing .live true 17) = .next t :=
  ⟨by decide +kernel, next_of_answers (by decide +kernel)⟩

end Sys2Proof.Tests
end

