-- ==== Sys2Proof/Proofs/TableWrite.lean ====
section
/-! PROOFS. TABLE WRITE (R66): what its length check demands of a counted list of delays, what its own work does
with good and with bad delays, and its obligation. -/

namespace Sys2Proof.Machine

/-! ### The body of a TABLE WRITE -/

/-- The length check bounds the delays by 1 and 1024, where their count fits its two bytes (R66, R189). -/
theorem tableWrite_lengthOk_iff {ds : List Byte} (h : ds.length < 65536) :
    Request.tableWrite.lengthOk (le 2 ds.length ++ ds) = true ↔ 1 ≤ ds.length ∧ ds.length ≤ 1024 := by
  have hcount : field (le 2 ds.length ++ ds) 0 2 = ds.length := by
    rw [field_le]
    exact Nat.mod_eq_of_lt h
  simp [Request.lengthOk, hcount]

/-- The delays stand behind the two bytes of their count. -/
theorem drop_tableWrite_count (n : Nat) (ds : List Byte) : (le 2 n ++ ds).drop 2 = ds :=
  List.drop_left' (le_length 2 n)

/-! ### Its own work -/

theorem badDelay_iff (d : Byte) : badDelay d = true ↔ 240 ≤ d.toNat ∧ d.toNat ≤ 254 := by
  simp [badDelay]

/-- Outside 240–254 a byte is a delay or 255. -/
theorem badDelay_eq_false_iff (d : Byte) : badDelay d = false ↔ d.toNat < 240 ∨ d.toNat = 255 := by
  have hd : d.toNat < 256 := d.isLt
  rw [← Bool.not_eq_true, badDelay_iff]
  omega

/-- One bad delay refuses them all, and nothing is written. -/
theorem applyTableWrite_of_bad (n : Nat) {ds : List Byte} (h : ∃ d ∈ ds, badDelay d = true) (s : State) :
    applyTableWrite (le 2 n ++ ds) s = (s, [statusBadField]) := by
  have hany : ds.any badDelay = true := List.any_eq_true.mpr h
  simp only [applyTableWrite, drop_tableWrite_count, if_pos hany]

/-- Good delays are all stored at the pointer, and the reply carries the pointer behind them. -/
theorem applyTableWrite_of_good (n : Nat) {ds : List Byte} (h : ∀ d ∈ ds, badDelay d = false) {s : State}
    {p : Pointer} {b : Bank} (hstore : storeDelays ds s.tts.pointer s.tts.shadowBank = (p, b)) :
    applyTableWrite (le 2 n ++ ds) s
      = ({ s with tts := { s.tts.setShadow b with pointer := p } }, statusOk :: p.bytes) := by
  have hany : ¬ ds.any badDelay = true := by simpa using h
  simp only [applyTableWrite, drop_tableWrite_count, if_neg hany, hstore]

/-! ### The obligation -/

/-- Settles O23, one case for each check in the order of R175: the length, the lock, the delays, and the work
itself. -/
theorem tableWriteStoresOrRefuses : Obligations.TableWriteStoresOrRefuses := by
  intro s tag ds hready hlen
  have hlength := tableWrite_lengthOk_iff (show ds.length < 65536 by omega)
  have hpasses (hpos : 1 ≤ ds.length) (hmax : ds.length ≤ 1024) :
      Request.tableWrite.lengthOk (le 2 ds.length ++ ds) = true := hlength.mpr ⟨hpos, hmax⟩
  refine ⟨fun hbad => ?length, fun hpos hmax hlocked => ?lock, fun hpos hmax hopen hbad => ?bytes,
    fun hpos hmax hopen hgood => ?stored⟩
  case length =>
    have hfits : (le 2 ds.length ++ ds).length ≤ 1152 := by simp; omega
    have hrefused : Request.tableWrite.lengthOk (le 2 ds.length ++ ds) = false := by
      rw [← Bool.not_eq_true, hlength]
      omega
    exact exec_badLength hready .tableWrite tag hfits hrefused
  case lock => exact exec_locked hready .tableWrite tag (hpasses hpos hmax) rfl rfl hlocked
  case bytes =>
    have hbad' : ∃ d ∈ ds, badDelay d = true := by simpa only [badDelay_iff] using hbad
    exact exec_request_replied (t := s.counted) hready .tableWrite tag (hpasses hpos hmax) rfl hopen
      (congrArg answered (applyTableWrite_of_bad ds.length hbad' s.counted)) rfl
  case stored =>
    have hgood' : ∀ d ∈ ds, badDelay d = false := fun d hd => (badDelay_eq_false_iff d).mpr (hgood d hd)
    rcases hstore : storeDelays ds s.tts.pointer s.tts.shadowBank with ⟨p, b⟩
    exact ⟨p, b, rfl, exec_request_replied hready .tableWrite tag (hpasses hpos hmax) rfl hopen
      (congrArg answered (applyTableWrite_of_good ds.length hgood' (s := s.counted) hstore)) rfl⟩

end Sys2Proof.Machine
end

/-! PROOFS. The stack of one node (R91 to R94): the list of used channels as a finite set, the sums and the count
over it, and the obligation. -/

namespace Sys2Proof.Machine

variable {p : PassContext} {ccu : Conditioner} {bank : Bank} {n : Nat}

/-! ### The used channels -/

/-- The four tests that make a channel used (R91). -/
theorem PassContext.mem_usedChannels {k : Fin 48} :
    k ∈ p.usedChannels ccu bank n ↔ p.channels[k].member = true ∧ p.channels[k].inService = true
      ∧ bank.delay n k ≠ 255 ∧ (ccu.channels[k].entryAt p.origin (bank.delay n k).toNat).valid = true := by
  simp [PassContext.usedChannels, PassContext.uses, and_assoc]

/-- No channel is used twice. -/
theorem PassContext.nodup_usedChannels : (p.usedChannels ccu bank n).Nodup :=
  (List.nodup_finRange 48).filter _

section
variable {u : Finset (Fin 48)} (hu : (p.usedChannels ccu bank n).toFinset = u)
include hu

/-- A sum over the list of used channels is the sum over their set. -/
theorem PassContext.sum_usedChannels (f : Fin 48 → Nat) :
    ((p.usedChannels ccu bank n).map f).sum = ∑ k ∈ u, f k := by
  rw [← hu, List.sum_toFinset f PassContext.nodup_usedChannels]

/-- A count in the list of used channels is the size of a part of their set. -/
theorem PassContext.countP_usedChannels (q : Fin 48 → Prop) [DecidablePred q] :
    (p.usedChannels ccu bank n).countP (fun k => q k) = (u.filter q).card := by
  rw [← hu, List.countP_eq_length_filter,
    ← List.toFinset_card_of_nodup (PassContext.nodup_usedChannels.filter _), List.toFinset_filter]
  simp only [decide_eq_true_eq]

end

/-! ### Mean and tests -/

/-- With Wsum 0 the quotient is 0 as well, as R92 asks of M. -/
theorem PassContext.weightedMean_eq_div :
    p.weightedMean ccu bank n = p.weightedSum ccu bank n / p.weightSum ccu bank n := by
  rw [PassContext.weightedMean]
  split
  next hzero => rw [hzero, Nat.div_zero]
  next => rfl

/-- The tests of R94, with the Wsum of R92. -/
theorem PassRegion.passes_iff {g : PassRegion} {m c wsum : Nat} :
    g.passes m c wsum = true ↔ g.mayFire = true ∧ wsum ≠ 0 ∧ g.minWeight ≤ wsum ∧ g.coincidence ≤ c
      ∧ g.declareLevel ≤ m := by
  simp [PassRegion.passes, and_assoc]

/-! ### The obligation -/

/-- Settles O32: u is the set of the list that the model sums and counts over. -/
theorem nodeFiresByItsTests : Obligations.NodeFiresByItsTests := by
  intro p ccu bank n u entry hentry hused
  have hentryAt (k : Fin 48) : ccu.channels[k].entryAt p.origin (bank.delay n k).toNat = entry k :=
    (hentry k).symm
  have hu : (p.usedChannels ccu bank n).toFinset = u := by
    ext k
    rw [List.mem_toFinset, PassContext.mem_usedChannels, hused, hentryAt]
  have hvalue (k : Fin 48) : p.cOf ccu bank n k = (entry k).value := by
    rw [PassContext.cOf, hentryAt]
  have hwsum : p.weightSum ccu bank n = ∑ k ∈ u, p.channels[k].weight := PassContext.sum_usedChannels hu _
  have hcsum : p.weightedSum ccu bank n = ∑ k ∈ u, p.channels[k].weight * (entry k).value := by
    simp only [PassContext.weightedSum, hvalue, PassContext.sum_usedChannels hu]
  have hmean : p.weightedMean ccu bank n
      = (∑ k ∈ u, p.channels[k].weight * (entry k).value) / ∑ k ∈ u, p.channels[k].weight := by
    rw [PassContext.weightedMean_eq_div, hcsum, hwsum]
  have hcount : p.coincidenceCount ccu bank n
      = (u.filter fun k => p.channels[k].trigger ≤ (entry k).value).card := by
    simp only [PassContext.coincidenceCount, hvalue, PassContext.countP_usedChannels hu]
  exact ⟨hwsum, hmean, hcount, PassRegion.passes_iff⟩

end Sys2Proof.Machine

/-! PROOFS. Region bests (R95): what one node makes of its region's best, what the best is of the nodes so far,
and the obligation. -/

namespace Sys2Proof.Machine

variable {p : PassContext} {ccu : Conditioner} {bank : Bank} {count n : Nat} {r : Fin 16}

/-! ### One node -/

/-- What the engine holds of a node that becomes its region's best. -/
def PassContext.bestOf (p : PassContext) (ccu : Conditioner) (bank : Bank) (n : Nat) : Best :=
  let k := p.stackOf ccu bank n
  { node := n, m := k.m, c := k.c, wsum := k.wsum, delays := Vector.ofFn fun ch => bank.delay n ch }

@[simp] theorem PassContext.bestOf_delays (k : Fin 48) : (p.bestOf ccu bank n).delays[k] = bank.delay n k :=
  Vector.getElem_ofFn k.isLt

theorem Best.yieldsTo_some {b : Best} {m c : Nat} :
    Best.yieldsTo (some b) m c = true ↔ b.m < m ∨ b.m = m ∧ b.c < c := by
  simp [Best.yieldsTo]

/-- Node `n` changes the best of its own region alone, and only where it fires and the best yields to it. -/
theorem PassContext.getElem_evaluate (best : Vector (Option Best) 16) :
    (p.evaluate ccu bank best n)[r]
      = if (bank.region n = r ∧ (p.stackOf ccu bank n).fires = true)
          ∧ Best.yieldsTo best[r] (p.stackOf ccu bank n).m (p.stackOf ccu bank n).c = true
        then some (p.bestOf ccu bank n) else best[r] := by
  by_cases hregion : bank.region n = r
  case pos =>
    subst hregion
    simp only [PassContext.evaluate, Bool.and_eq_true, true_and]
    split
    next => exact Vector.getElem_set_self _
    next => rfl
  case neg =>
    have hne : (bank.region n).val ≠ r.val := Fin.val_ne_of_ne hregion
    simp only [PassContext.evaluate, hregion, false_and, if_false]
    split
    next => exact Vector.getElem_set_ne _ _ hne
    next => rfl

theorem PassContext.bestsAfter_succ :
    p.bestsAfter ccu bank (n + 1) = p.evaluate ccu bank (p.bestsAfter ccu bank n) n := by
  simp [PassContext.bestsAfter, List.range_succ]

/-! ### The nodes so far -/

/-- Node `n` is one of nodes 0 to count − 1, of region `r`, and fires. -/
def PassContext.FiresIn (p : PassContext) (ccu : Conditioner) (bank : Bank) (count : Nat) (r : Fin 16)
    (n : Nat) : Prop :=
  n < count ∧ bank.region n = r ∧ (p.stackOf ccu bank n).fires = true

/-- A best holds its place against node `n` with this stack: greater M, then greater C, then not the higher
index. -/
def Best.HoldsAgainst (b : Best) (k : Stack) (n : Nat) : Prop :=
  k.m < b.m ∨ k.m = b.m ∧ k.c < b.c ∨ k.m = b.m ∧ k.c = b.c ∧ b.node ≤ n

/-- What R95 says the region best is of nodes 0 to count − 1. -/
def PassContext.IsRegionBest (p : PassContext) (ccu : Conditioner) (bank : Bank) (count : Nat) (r : Fin 16) :
    Option Best → Prop
  | none => ∀ n, ¬ p.FiresIn ccu bank count r n
  | some b => p.FiresIn ccu bank count r b.node ∧ b = p.bestOf ccu bank b.node
      ∧ ∀ n, p.FiresIn ccu bank count r n → b.HoldsAgainst (p.stackOf ccu bank n) n

theorem PassContext.firesIn_succ :
    p.FiresIn ccu bank (count + 1) r n ↔ p.FiresIn ccu bank count r n
      ∨ n = count ∧ bank.region count = r ∧ (p.stackOf ccu bank count).fires = true := by
  simp only [PassContext.FiresIn, Nat.lt_succ_iff_lt_or_eq, or_and_right]
  refine or_congr_right (and_congr_right ?_)
  rintro rfl
  rfl

/-- A node of another region, and one that does not fire, leave the best what it is. -/
theorem PassContext.IsRegionBest.succ_of_not_fires {best : Option Best}
    (h : p.IsRegionBest ccu bank count r best)
    (hnot : ¬ (bank.region count = r ∧ (p.stackOf ccu bank count).fires = true)) :
    p.IsRegionBest ccu bank (count + 1) r best := by
  have hsame (n : Nat) : p.FiresIn ccu bank (count + 1) r n ↔ p.FiresIn ccu bank count r n := by
    simp only [PassContext.firesIn_succ, hnot, and_false, or_false]
  cases best <;> simpa only [PassContext.IsRegionBest, hsame] using h

/-- A firing node that the best yields to is the best of the nodes up to it. -/
theorem PassContext.IsRegionBest.succ_of_yields {best : Option Best}
    (h : p.IsRegionBest ccu bank count r best)
    (hfires : bank.region count = r ∧ (p.stackOf ccu bank count).fires = true)
    (hyields : Best.yieldsTo best (p.stackOf ccu bank count).m (p.stackOf ccu bank count).c = true) :
    p.IsRegionBest ccu bank (count + 1) r (some (p.bestOf ccu bank count)) := by
  refine ⟨PassContext.firesIn_succ.mpr (.inr ⟨rfl, hfires⟩), rfl, fun n hn => ?_⟩
  rcases PassContext.firesIn_succ.mp hn with hbefore | ⟨rfl, -⟩
  case inr => exact .inr (.inr ⟨rfl, rfl, Nat.le_refl _⟩)
  case inl =>
    cases best with
    | none => exact absurd hbefore (h n)
    | some b =>
      obtain ⟨-, -, hgreatest⟩ := h
      have hholds := hgreatest n hbefore
      rw [Best.yieldsTo_some] at hyields
      simp only [Best.HoldsAgainst, PassContext.bestOf] at hholds ⊢
      omega

/-- A firing node that the best does not yield to leaves it the best: among equals it has the lower index. -/
theorem PassContext.IsRegionBest.succ_of_not_yields {best : Option Best}
    (h : p.IsRegionBest ccu bank count r best)
    (hkept : ¬ Best.yieldsTo best (p.stackOf ccu bank count).m (p.stackOf ccu bank count).c = true) :
    p.IsRegionBest ccu bank (count + 1) r best := by
  cases best with
  | none => exact absurd rfl hkept
  | some b =>
    obtain ⟨hnode, hrecord, hgreatest⟩ := h
    refine ⟨PassContext.firesIn_succ.mpr (.inl hnode), hrecord, fun n hn => ?_⟩
    rcases PassContext.firesIn_succ.mp hn with hbefore | ⟨rfl, -⟩
    case inl => exact hgreatest n hbefore
    case inr =>
      have hearlier : b.node < n := hnode.1
      rw [Best.yieldsTo_some] at hkept
      simp only [Best.HoldsAgainst]
      omega

/-- The engine's region best after nodes 0 to count − 1 is what R95 says of it. -/
theorem PassContext.isRegionBest_bestsAfter :
    p.IsRegionBest ccu bank count r (p.bestsAfter ccu bank count)[r] := by
  induction count with
  | zero =>
    have hnone : (p.bestsAfter ccu bank 0)[r] = none := by simp [PassContext.bestsAfter]
    rw [hnone]
    exact fun n hn => absurd hn.1 (Nat.not_lt_zero n)
  | succ count ih =>
    rw [PassContext.bestsAfter_succ, PassContext.getElem_evaluate]
    split
    next htaken => exact ih.succ_of_yields htaken.1 htaken.2
    next hkept =>
      by_cases hfires : bank.region count = r ∧ (p.stackOf ccu bank count).fires = true
      case pos => exact ih.succ_of_not_yields fun hyields => hkept ⟨hfires, hyields⟩
      case neg => exact ih.succ_of_not_fires hfires

/-! ### The obligation -/

/-- Settles O33, from the region best of the nodes so far, which the induction on the nodes gives. -/
theorem regionBestIsTheGreatest : Obligations.RegionBestIsTheGreatest := by
  intro p ccu bank count r fires best hfires hbest
  obtain rfl : fires = p.FiresIn ccu bank count r := funext fun n => propext (hfires n)
  have h : p.IsRegionBest ccu bank count r best := hbest ▸ PassContext.isRegionBest_bestsAfter
  cases best with
  | none => exact ⟨iff_of_true rfl h, nofun⟩
  | some b =>
    obtain ⟨hnode, hrecord, hgreatest⟩ := h
    refine ⟨iff_of_false nofun fun hnone => hnone _ hnode, ?_⟩
    rintro _ ⟨rfl⟩
    have hdelays (k : Fin 48) : b.delays[k] = bank.delay b.node k :=
      (congrArg (fun best : Best => best.delays[k]) hrecord).trans (PassContext.bestOf_delays k)
    exact ⟨hnode, congrArg Best.m hrecord, congrArg Best.c hrecord, congrArg Best.wsum hrecord, hdelays,
      hgreatest⟩

end Sys2Proof.Machine

/-! PROOFS. SET MONITOR (R101): its fields, what its own work does in each of its three cases, and its
obligation. -/

namespace Sys2Proof.Machine

/-! ### The body of a SET MONITOR -/

/-- The body of a SET MONITOR: the enable flag's byte, the node and the skip (R190). -/
def setMonitorBody (enable : Byte) (node skip : Nat) : List Byte := [enable] ++ le 2 node ++ [byte skip]

section
variable (enable : Byte) {node skip : Nat}

theorem setMonitorBody_lengthOk : Request.setMonitor.lengthOk (setMonitorBody enable node skip) = true := by
  simp [setMonitorBody, Request.lengthOk]

theorem flagBit_setMonitorBody : flagBit (setMonitorBody enable node skip) 0 0 = enable.getLsbD 0 := rfl

theorem field_setMonitorBody_node (h : node < 65536) : field (setMonitorBody enable node skip) 1 2 = node := by
  have hbytes : field (setMonitorBody enable node skip) 1 2 = node % 256 ^ 2 := field_le 2 node [byte skip]
  exact hbytes.trans (Nat.mod_eq_of_lt h)

theorem field_setMonitorBody_skip (h : skip < 256) : field (setMonitorBody enable node skip) 3 1 = skip := by
  have hbytes : field (setMonitorBody enable node skip) 3 1 = field [byte skip] 0 1 :=
    field_append 2 node [byte skip] 0 1
  rw [hbytes, field_cons_zero, byte_toNat, Nat.mod_eq_of_lt h]

end

/-! ### Its own work -/

/-- The tap disabled: node and skip stay as they are. -/
theorem applySetMonitor_disabled {body : List Byte} (h : flagBit body 0 0 = false) (s : State) :
    applySetMonitor body s
      = ({ s with stk := { s.stk.tapChanged with tapEnabled := false } },
        [0x00, 0x00] ++ le 2 s.stk.tapNode ++ [byte s.stk.tapSkip]) := by
  rw [applySetMonitor, if_neg (by simp [h])]
  rfl

/-- The tap set to a node that the active bank offers. -/
theorem applySetMonitor_enabled {body : List Byte} {node skip : Nat} {s : State} (h : flagBit body 0 0 = true)
    (hnode : field body 1 2 = node) (hskip : field body 3 1 = skip) (hoffered : node < s.tts.activeBank.count) :
    applySetMonitor body s
      = ({ s with stk := { s.stk.tapChanged with
          tapEnabled := true, tapNode := node, tapSkip := min 63 skip } },
        [0x00, 0x01] ++ le 2 node ++ [byte (min 63 skip)]) := by
  have hclamp : clampNat 0 63 skip = min 63 skip := by rw [clampNat_eq (Nat.zero_le 63), Nat.zero_max]
  rw [applySetMonitor, if_pos h, hnode, hskip, hclamp, if_pos hoffered]
  rfl

/-- A node that the active bank does not offer changes nothing. -/
theorem applySetMonitor_refused {body : List Byte} {s : State} (h : flagBit body 0 0 = true)
    (hnode : s.tts.activeBank.count ≤ field body 1 2) : applySetMonitor body s = (s, [statusBadField]) := by
  rw [applySetMonitor, if_pos h, if_neg (Nat.not_lt.mpr hnode)]

/-! ### The obligation -/

/-- Settles O36, one case for each of the three outcomes of R101. -/
theorem setMonitorSetsTheTap : Obligations.SetMonitorSetsTheTap := by
  intro s tag enable node skip marked hready hnode hskip hmarked
  obtain rfl : marked = s.stk.tapChanged := hmarked
  have hflag := flagBit_setMonitorBody enable (node := node) (skip := skip)
  have hfield := field_setMonitorBody_node enable (skip := skip) hnode
  have hexec {t : State} {reply : List Byte}
      (hwork : applySetMonitor (setMonitorBody enable node skip) s.counted = (t, reply))
      (hcpt : t.cpt = s.counted.cpt) :
      exec (.setMonitor tag (setMonitorBody enable node skip)) s
        = .next { t with cpt := s.cpt.replied 0x30 tag reply } :=
    exec_request_replied hready .setMonitor tag (setMonitorBody_lengthOk enable) rfl rfl
      (congrArg answered hwork) hcpt
  refine ⟨fun hbit => ?disabled, fun hbit hoffered => ?enabled, fun hbit hbeyond => ?refused⟩
  case disabled => exact hexec (applySetMonitor_disabled (hflag.trans hbit) s.counted) rfl
  case enabled =>
    exact hexec (applySetMonitor_enabled (s := s.counted) (hflag.trans hbit) hfield
      (field_setMonitorBody_skip enable hskip) hoffered) rfl
  case refused =>
    exact hexec (t := s.counted) (applySetMonitor_refused (hflag.trans hbit)
      (hbeyond.trans_eq hfield.symm)) rfl

end Sys2Proof.Machine

/-! PROOFS. A region at an origin (R119 to R123): what each slot does with and without a best, when an OPEN slot
closes and when it stays OPEN, and the obligation. -/

namespace Sys2Proof.Machine

section
variable {s : State} {d : PassResult} {r : Fin 16}

/-! ### One region at one origin, by its slot -/

/-- DEAD counts down, whatever the origin has (R123). -/
theorem State.regionOrigin_of_dead {n : Nat} (hslot : s.evb.regions[r].slot = .dead n) (skipped : Bool) :
    s.regionOrigin skipped d r = s.onRegion r (Region.deadStep n) := by
  simp only [State.regionOrigin, hslot]

theorem State.regionOrigin_of_idle_of_best {b : Best} (hslot : s.evb.regions[r].slot = .idle)
    (hbest : d.best[r] = some b) :
    s.regionOrigin false d r
      = if s.evb.regions[r].inForce then s.keepOpen r (.ofBest b d) else s := by
  simp only [State.regionOrigin, hslot, hbest, Bool.false_eq_true, if_false]

theorem State.regionOrigin_of_opened_of_best {k : Candidate} {b : Best}
    (hslot : s.evb.regions[r].slot = .opened k) (hbest : d.best[r] = some b) :
    s.regionOrigin false d r = s.firingOrigin r b d k := by
  simp only [State.regionOrigin, hslot, hbest, Bool.false_eq_true, if_false]

/-- A skipped origin has no best, nor has an evaluated one where no node of the region fires (R118). -/
theorem PassResult.bestAt_eq_none {skipped : Bool} (h : skipped = true ∨ d.best[r] = none) :
    (if skipped = true then none else d.best[r]) = none :=
  ite_eq_left_iff.mpr h.resolve_left

theorem State.regionOrigin_of_idle_of_noBest {skipped : Bool} (hslot : s.evb.regions[r].slot = .idle)
    (hnone : skipped = true ∨ d.best[r] = none) : s.regionOrigin skipped d r = s := by
  simp only [State.regionOrigin, hslot, PassResult.bestAt_eq_none hnone]

theorem State.regionOrigin_of_opened_of_noBest {skipped : Bool} {k : Candidate}
    (hslot : s.evb.regions[r].slot = .opened k) (hnone : skipped = true ∨ d.best[r] = none) :
    s.regionOrigin skipped d r = s.quietOrigin r skipped k := by
  simp only [State.regionOrigin, hslot, PassResult.bestAt_eq_none hnone]

/-! ### An OPEN region closes or stays OPEN -/

/-- A firing origin at the max span closes for LONG (R120). -/
theorem State.firingOrigin_of_maxSpan_le {b : Best} {k : Candidate}
    (h : s.evb.regions[r].record.maxSpan ≤ k.span + 1) :
    s.firingOrigin r b d k = s.closeCandidate r .long (k.fires b d) := if_pos h

theorem State.firingOrigin_of_lt_maxSpan {b : Best} {k : Candidate}
    (h : k.span + 1 < s.evb.regions[r].record.maxSpan) :
    s.firingOrigin r b d k = s.keepOpen r (k.fires b d) := if_neg h.not_ge

section
variable {skipped : Bool} {k : Candidate}

/-- The release is tested first (R122): QUIET, whatever the span. -/
theorem State.quietOrigin_of_release_le (h : s.evb.regions[r].record.release ≤ k.quiet + 1) :
    s.quietOrigin r skipped k = s.closeCandidate r .quiet (k.doesNotFire skipped) := if_pos h

theorem State.quietOrigin_of_maxSpan_le (hquiet : k.quiet + 1 < s.evb.regions[r].record.release)
    (hspan : s.evb.regions[r].record.maxSpan ≤ k.span + 1) :
    s.quietOrigin r skipped k = s.closeCandidate r .long (k.doesNotFire skipped) :=
  (if_neg hquiet.not_ge).trans (if_pos hspan)

theorem State.quietOrigin_of_lt_maxSpan (hquiet : k.quiet + 1 < s.evb.regions[r].record.release)
    (hspan : k.span + 1 < s.evb.regions[r].record.maxSpan) :
    s.quietOrigin r skipped k = s.keepOpen r (k.doesNotFire skipped) :=
  (if_neg hquiet.not_ge).trans (if_neg hspan.not_ge)

end

/-! ### The dead count (R123) -/

theorem Region.deadStep_one : Region.deadStep 1 = Region.becomeIdle := rfl

theorem Region.deadStep_add_two (n : Nat) :
    Region.deadStep (n + 2) = fun g => { g with slot := .dead (n + 1) } :=
  funext fun _ => if_neg (by omega)

end

/-! ### The obligation -/

/-- Settles O38, by the slot of the region: IDLE and OPEN with a best, the same without one, and DEAD. -/
theorem originAdvancesTheRegion : Obligations.OriginAdvancesTheRegion := by
  refine ⟨fun s d r b hbest => ⟨?idleOff, ?opens, ?fires⟩, fun s skipped d r hnone => ⟨?idle, ?quiet⟩,
    fun s skipped d r => ⟨?deadOver, ?deadOn⟩⟩
  case idleOff =>
    intro hslot hoff
    rw [State.regionOrigin_of_idle_of_best hslot hbest, hoff]
    rfl
  case opens =>
    rintro c hslot hon rfl
    rw [State.regionOrigin_of_idle_of_best hslot hbest, hon]
    rfl
  case fires =>
    rintro k peak k' hslot rfl hk'
    obtain rfl : k' = k.fires b d := hk'
    rw [State.regionOrigin_of_opened_of_best hslot hbest]
    exact ⟨State.firingOrigin_of_maxSpan_le, State.firingOrigin_of_lt_maxSpan⟩
  case idle => exact fun hslot => State.regionOrigin_of_idle_of_noBest hslot hnone
  case quiet =>
    intro k k' hslot hk'
    obtain rfl : k' = k.doesNotFire skipped := hk'
    rw [State.regionOrigin_of_opened_of_noBest hslot hnone]
    exact ⟨State.quietOrigin_of_release_le, State.quietOrigin_of_maxSpan_le,
      State.quietOrigin_of_lt_maxSpan⟩
  case deadOver =>
    intro hslot
    rw [State.regionOrigin_of_dead hslot, Region.deadStep_one]
    rfl
  case deadOn =>
    intro n hslot
    rw [State.regionOrigin_of_dead hslot, Region.deadStep_add_two]

end Sys2Proof.Machine

/-! PROOFS. SET REGION (R113, R115): the fields of its body with their clamps, what becomes of the enabled in
force, its own work, and its obligation. -/

namespace Sys2Proof.Machine

/-! ### The body of a SET REGION -/

theorem byte_toNat_of_lt {n : Nat} (h : n < 256) : (byte n).toNat = n :=
  (byte_toNat n).trans (Nat.mod_eq_of_lt h)

theorem field_le_two_of_lt {n : Nat} (h : n < 65536) : field (le 2 n) 0 2 = n :=
  (field_le_nil 2 n).trans (Nat.mod_eq_of_lt h)

/-- The body of a SET REGION: the region's number and the ten bytes of its record (R190). -/
def setRegionBody (number enable : Byte) (declare coincidence weight release span dead : Nat) : List Byte :=
  [number, enable, byte declare, byte coincidence] ++ le 2 weight ++ [byte release] ++ le 2 span ++ le 2 dead

section
variable (number enable : Byte) {declare coincidence weight release span dead : Nat}

theorem setRegionBody_lengthOk :
    Request.setRegion.lengthOk (setRegionBody number enable declare coincidence weight release span dead)
      = true := rfl

theorem field_setRegionBody_number :
    field (setRegionBody number enable declare coincidence weight release span dead) 0 1 = number.toNat := rfl

/-- The record that the body carries, each value clamped to its range (R113). -/
theorem ofBody_setRegionBody (hdeclare : declare < 256) (hcoincidence : coincidence < 256)
    (hweight : weight < 65536) (hrelease : release < 256) (hspan : span < 65536) (hdead : dead < 65536) :
    RegionRecord.ofBody (setRegionBody number enable declare coincidence weight release span dead)
      = { enabled := enable.getLsbD 0, declareLevel := max 1 declare,
          coincidence := max 1 (min 48 coincidence), minWeight := max 1 (min 720 weight),
          release := max 1 (min 64 release), maxSpan := max 8 (min 4096 span),
          deadTime := min 4095 dead } := by
  have hfields : RegionRecord.ofBody (setRegionBody number enable declare coincidence weight release span dead)
      = { enabled := enable.getLsbD 0, declareLevel := clampNat 1 255 (byte declare).toNat,
          coincidence := clampNat 1 48 (byte coincidence).toNat,
          minWeight := clampNat 1 720 (field (le 2 weight) 0 2),
          release := clampNat 1 64 (byte release).toNat,
          maxSpan := clampNat 8 4096 (field (le 2 span) 0 2),
          deadTime := clampNat 0 4095 (field (le 2 dead) 0 2) } := rfl
  have hlevel : clampNat 1 255 declare = max 1 declare := by
    rw [clampNat_eq (by omega), min_eq_right (Nat.le_of_lt_succ hdeclare)]
  have htime : clampNat 0 4095 dead = min 4095 dead := by rw [clampNat_eq (by omega), Nat.zero_max]
  rw [hfields, byte_toNat_of_lt hdeclare, byte_toNat_of_lt hcoincidence, byte_toNat_of_lt hrelease,
    field_le_two_of_lt hweight, field_le_two_of_lt hspan, field_le_two_of_lt hdead, hlevel, htime,
    clampNat_eq (by omega), clampNat_eq (by omega), clampNat_eq (by omega), clampNat_eq (by omega)]

end

/-! ### Its own work -/

/-- An enable is in force at once, a disable at once on an IDLE slot alone (R115). -/
theorem Region.setRecord_eq (rec : RegionRecord) (g : Region) :
    g.setRecord rec
      = { g with record := rec, inForce := rec.enabled || (g.inForce && decide (g.slot ≠ .idle)) } := by
  have hinForce : (if rec.enabled = true then true else if g.slot = .idle then false else g.inForce)
      = (rec.enabled || (g.inForce && decide (g.slot ≠ .idle))) := by
    by_cases henabled : rec.enabled = true
    · simp [henabled]
    · by_cases hidle : g.slot = .idle <;> simp [henabled, hidle]
  rw [Region.setRecord, hinForce]

/-- A number of 16 or more names no region. -/
theorem applySetRegion_of_no_region {b : List Byte} (h : 16 ≤ field b 0 1) (s : State) :
    applySetRegion b s = (s, [statusBadField]) := dif_neg h.not_gt

/-- The record of region `r` replaced, and the region as it then stands in the reply. -/
theorem applySetRegion_of_region {b : List Byte} {r : Fin 16} (h : field b 0 1 = r.val) (s : State)
    {g : Region} (hg : g = s.evb.regions[r].setRecord (RegionRecord.ofBody b)) :
    applySetRegion b s
      = (s.onRegion r fun _ => g,
        [0x00, byte r.val] ++ g.record.bytes ++ [flag g.inForce, g.slot.code]) := by
  have hlt : field b 0 1 < 16 := h ▸ r.isLt
  subst hg
  rw [applySetRegion, dif_pos hlt]
  simp only [h, State.onRegion_same]
  rfl

/-! ### The obligation -/

/-- Settles O43, one case for each outcome in the order of R175: the length, the number, and the record
stored. -/
theorem setRegionStoresTheRecord : Obligations.SetRegionStoresTheRecord := by
  intro s tag number enable declare coincidence weight release span dead body hready hdeclare hcoincidence
    hweight hrelease hspan hdead hbytes
  have hbody : body = setRegionBody number enable declare coincidence weight release span dead := hbytes
  have hlengthOk : Request.setRegion.lengthOk body = true := hbody ▸ setRegionBody_lengthOk number enable
  have hfield : field body 0 1 = number.toNat := hbody ▸ field_setRegionBody_number number enable
  have hrecord := ofBody_setRegionBody number enable hdeclare hcoincidence hweight hrelease hspan hdead
  rw [← hbody] at hrecord
  have hexec {t : State} {reply : List Byte} (hwork : applySetRegion body s.counted = (t, reply))
      (hcpt : t.cpt = s.counted.cpt) :
      exec (.setRegion tag body) s = .next { t with cpt := s.cpt.replied 0x13 tag reply } :=
    exec_request_replied hready .setRegion tag hlengthOk rfl rfl (congrArg answered hwork) hcpt
  refine ⟨fun hbeyond => ?number, fun b hfits hlength => ?length, fun r g hnumber hg => ?stored⟩
  case number =>
    exact hexec (t := s.counted) (applySetRegion_of_no_region (hbeyond.trans_eq hfield.symm) _) rfl
  case length =>
    exact exec_badLength hready .setRegion tag hfits (beq_eq_false_iff_ne.mpr hlength)
  case stored =>
    have hset : g = s.evb.regions[r].setRecord (RegionRecord.ofBody body) := by
      rw [hg, Region.setRecord_eq, hrecord]
    have hbyte : byte r.val = number := by rw [← hnumber, byte, BitVec.ofNat_toNat, BitVec.setWidth_eq]
    have hwork := applySetRegion_of_region (hfield.trans hnumber) s.counted hset
    rw [hbyte] at hwork
    exact (hexec hwork rfl).trans rfl

end Sys2Proof.Machine

/-! PROOFS. FETCH SUMMARY (R184) and FETCH EXCERPT (R186): what the own work of each does with an empty queue and
with a head, and their obligation. -/

namespace Sys2Proof.Machine

/-! ### FETCH SUMMARY -/

/-- An empty summary queue answers EMPTY, and nothing changes. -/
theorem applyFetchSummary_of_nil {s : State} (h : s.rpq.summaries = []) (body : List Byte) :
    applyFetchSummary body s = (s, [statusEmpty]) := by
  rw [applyFetchSummary, h]

/-- The head record leaves the queue, and ATTN is judged by what remains (R187). -/
theorem applyFetchSummary_of_cons {s : State} {x : Summary} {rest : List Summary}
    (h : s.rpq.summaries = x :: rest) (body : List Byte) :
    applyFetchSummary body s
      = ({ s with rpq :=
          { s.rpq with summaries := rest, attn := decide (s.rpq.threshold ≤ rest.length) } },
        [0x00, byte rest.length] ++ x.bytes) := by
  rw [applyFetchSummary, h]
  rfl

/-! ### FETCH EXCERPT -/

/-- An empty excerpt queue answers EMPTY, and nothing changes. -/
theorem applyFetchExcerpt_of_nil {s : State} (h : s.rpq.excerpts = []) (body : List Byte) :
    applyFetchExcerpt body s = (s, [statusEmpty]) := by
  rw [applyFetchExcerpt, h]

/-- The chunk that ends the head excerpt takes it from the queue; any other moves the head offset on. -/
theorem Reports.afterChunk_of_cons {r : Reports} {x : Excerpt} {rest : List Excerpt}
    (h : r.excerpts = x :: rest) (n : Nat) :
    r.afterChunk n
      = if r.headOffset + n = x.bytes.length then { r with excerpts := rest, headOffset := 0 }
        else { r with headOffset := r.headOffset + n } := by
  rw [Reports.afterChunk, h]

/-- The next chunk of the head excerpt leaves the queue, and the reply tells what the queue then holds. -/
theorem applyFetchExcerpt_of_cons {s : State} {x : Excerpt} {rest : List Excerpt} {chunk : List Byte}
    {q : Reports} (h : s.rpq.excerpts = x :: rest) (hchunk : chunk = x.chunk s.rpq.headOffset)
    (hq : q = s.rpq.afterChunk chunk.length) (body : List Byte) :
    applyFetchExcerpt body s
      = ({ s with rpq := q },
        [0x00] ++ le 4 x.event ++ le 6 x.origin ++ x.label.bytes ++ le 4 x.bytes.length
          ++ le 4 s.rpq.headOffset ++ le 2 chunk.length
          ++ [flag (decide (s.rpq.headOffset + chunk.length = x.bytes.length))]
          ++ le 2 q.excerpts.length ++ le 4 q.bytesHeld ++ chunk) := by
  subst hchunk hq
  rw [applyFetchExcerpt, h]
  rfl

/-! ### The obligation -/

/-- Settles O50: both requests pass the checks of R175 in every mode and with the bank locked, so each answers
with its own work on an empty queue or on one with a head. -/
theorem fetchesTakeFromTheHead : Obligations.FetchesTakeFromTheHead := by
  intro s tag hready
  refine ⟨fun hnil => ?noSummary, fun x rest hcons => ?summary, fun hnil => ?noExcerpt,
    fun x rest chunk last q hcons hchunk hlast hq => ?chunk⟩
  case noSummary =>
    exact exec_request_replied (t := s.counted) hready .fetchSummary tag rfl rfl rfl
      (congrArg answered (applyFetchSummary_of_nil (s := s.counted) hnil [])) rfl
  case summary =>
    exact exec_request_replied hready .fetchSummary tag rfl rfl rfl
      (congrArg answered (applyFetchSummary_of_cons (s := s.counted) hcons [])) rfl
  case noExcerpt =>
    exact exec_request_replied (t := s.counted) hready .fetchExcerpt tag rfl rfl rfl
      (congrArg answered (applyFetchExcerpt_of_nil (s := s.counted) hnil [])) rfl
  case chunk =>
    have hqueue : q = s.rpq.afterChunk chunk.length := by
      rw [hq, hlast, Reports.afterChunk_of_cons hcons]
      simp only [decide_eq_true_eq]
    subst hlast
    exact exec_request_replied hready .fetchExcerpt tag rfl rfl rfl
      (congrArg answered (applyFetchExcerpt_of_cons (s := s.counted) hcons hchunk hqueue [])) rfl

end Sys2Proof.Machine

/-! PROOFS. Once, what the own work of a request can do: every request that passes the checks of R175 leaves one of
the states below. Later proofs about every step take the cases of `Requested` and unfold no request. -/

namespace Sys2Proof.Machine

/-! ### Storage that a request writes -/

theorem Bank.setDelay_storageWf {b : Bank} (h : b.storageWf) (n k : Nat) (v : Byte) :
    (b.setDelay n k v).storageWf := ⟨Memory.wf_write h.1 _ _, h.2⟩

theorem Bank.setRegion_storageWf {b : Bank} (h : b.storageWf) (n : Nat) (r : Fin 16) :
    (b.setRegion n r).storageWf := ⟨h.1, Memory.wf_write h.2 _ _⟩

/-- A fold of steps that each keep a property. -/
theorem foldl_keeps {α β : Type} {P : α → Prop} {f : α → β → α} (h : ∀ a b, P a → P (f a b)) (l : List β) :
    ∀ a, P a → P (l.foldl f a) := by
  induction l with
  | nil => exact fun _ ha => ha
  | cons b l ih => exact fun a ha => ih _ (h a b ha)

theorem mapRegions_storageWf (r : Fin 16) (first n : Nat) {b : Bank} (h : b.storageWf) :
    (mapRegions r first n b).storageWf :=
  foldl_keeps (P := Bank.storageWf) (fun _ i hb => Bank.setRegion_storageWf hb (first + i) r) _ b h

theorem storeDelays_storageWf (ds : List Byte) :
    ∀ (p : Pointer) (b : Bank), b.storageWf → (storeDelays ds p b).2.storageWf := by
  induction ds with
  | nil => exact fun _ _ h => h
  | cons d ds ih => exact fun p b h => ih _ _ (Bank.setDelay_storageWf h _ _ _)

/-! ### What a request can do -/

/-- What a request can leave of `s`: one constructor for each kind of effect, with what its checks ensure. -/
inductive Requested (s : State) : State → Prop
  /-- STATUS, a request refused for a field, and a queue found empty -/
  | unchanged : Requested s s
  /-- RESET (R181) -/
  | resetPending : Requested s (s.withCpt { s.cpt with resetPending := true })
  /-- SET ACQUISITION (R37) -/
  | acquisition (dec rate : Fin 4) (sta lta : Nat) (hmode : s.mode = .standby) :
      Requested s ((s.withCcu { s.ccu with decimation := dec, staShift := sta, ltaShift := lta }).withTbu
        { s.tbu with fsSetting := rate })
  /-- SET CHANNEL (R18) and the health counts of CHANNEL REPORT (R22) -/
  | channel (k : Fin 48) (c : Channel) (hraw : c.rawRing = s.ccu.channels[k].rawRing)
      (hcf : c.cfRing = s.ccu.channels[k].cfRing) :
      Requested s (s.withCcu { s.ccu with channels := s.ccu.channels.set k c })
  /-- SET REGION (R113, R115) -/
  | region (r : Fin 16) (rec : RegionRecord) : Requested s (s.onRegion r (Region.setRecord rec))
  /-- SET TIME (R56) -/
  | time (p : Option Nat) (limit : Nat) (hlow : 1 ≤ limit) (hhigh : limit ≤ 3600) :
      Requested s (s.withTbu { s.tbu with pendingSeconds := p, holdoverLimit := limit })
  /-- TABLE POINTER (R65) -/
  | pointer (p : Pointer) : Requested s (s.withTts { s.tts with pointer := p })
  /-- TABLE WRITE, BANK SIZE and REGION MAP (R66, R70, R71) -/
  | shadow (b : Bank) (p : Pointer) (hopen : s.tts.locked = false)
      (hwf : s.tts.shadowBank.storageWf → b.storageWf) :
      Requested s (s.withTts { s.tts.setShadow b with pointer := p })
  /-- TABLE READ that waits (R69) -/
  | read (r : ReadRequest) : Requested s (s.withTts { s.tts with waitingRead := some r }).serveIdle
  /-- BANK COPY (R73) -/
  | copy (j : CopyJob) (hopen : s.tts.locked = false) :
      Requested s (s.withTts { s.tts with copy := some j }).serveIdle
  /-- BANK ACTIVATE in STANDBY (R75) -/
  | swapNow (hcount : s.tts.shadowBank.count ≠ 0) (hopen : s.tts.locked = false) : Requested s s.swap
  /-- BANK ACTIVATE in a run (R75) -/
  | swapPending (hcount : s.tts.shadowBank.count ≠ 0) (hopen : s.tts.locked = false) :
      Requested s (s.withTts { s.tts with swapPending := true }).serveIdle
  /-- SET MONITOR (R101) -/
  | monitor (e : Engine) (horigins : e.origins = s.stk.origins) : Requested s (s.withStk e)
  /-- SET EXCERPT (R152) -/
  | excerpt (u : ExcerptUnit) (hjobs : u.jobs = s.exu.jobs) (hleft : u.allowanceLeft = s.exu.allowanceLeft)
      (hforce : u.allowanceInForce = s.exu.allowanceInForce) : Requested s (s.withExu u)
  /-- SET ATTENTION (R187) -/
  | attention (n : Nat) (hlow : 1 ≤ n) (hhigh : n ≤ 64) :
      Requested s (s.withRpq { s.rpq with threshold := n }.judge)
  /-- FETCH SUMMARY (R184) -/
  | summary (x : Summary) (rest : List Summary) (hqueue : s.rpq.summaries = x :: rest) :
      Requested s (s.withRpq { s.rpq with summaries := rest }.judge)
  /-- FETCH EXCERPT (R186) -/
  | chunk (x : Excerpt) (rest : List Excerpt) (hqueue : s.rpq.excerpts = x :: rest) :
      Requested s (s.withRpq (s.rpq.afterChunk (x.chunk s.rpq.headOffset).length))
  /-- START (R159) -/
  | start (hmode : s.mode = .standby) (hcount : s.tts.activeBank.count ≠ 0) :
      Requested s (State.takeAll s.exu.jobs.length s).startRun
  /-- STOP (R162) -/
  | stop (hmode : s.mode ≠ .standby) : Requested s s.stopRun

/-! ### Each request -/

section
variable (body : List Byte) (s : State)

theorem applySetAcquisition_requested (hmode : s.mode = .standby) :
    Requested s (applySetAcquisition body s).1 := by
  unfold applySetAcquisition
  dsimp only
  split
  next h =>
    split
    · exact .acquisition ⟨_, h.2⟩ ⟨_, h.1⟩ _ _ hmode
    · exact .unchanged
  next => exact .unchanged

theorem applySetChannel_requested : Requested s (applySetChannel body s).1 := by
  unfold applySetChannel
  dsimp only
  split
  next h => exact .channel ⟨_, h⟩ _ rfl rfl
  next => exact .unchanged

theorem applyChannelReport_requested : Requested s (applyChannelReport body s).1 := by
  unfold applyChannelReport
  dsimp only
  split
  next h =>
    split
    · exact .channel ⟨_, h⟩ _ rfl rfl
    · exact .unchanged
  next => exact .unchanged

theorem applySetRegion_requested : Requested s (applySetRegion body s).1 := by
  unfold applySetRegion
  dsimp only
  split
  · exact .region _ _
  · exact .unchanged

theorem applySetTime_requested : Requested s (applySetTime body s).1 := by
  unfold applySetTime
  split
  · exact .unchanged
  · have hclamp := clampNat_eq (lo := 1) (hi := 3600) (by omega) (field body 5 2)
    exact .time _ _ (by omega) (by omega)

theorem applyTablePointer_requested : Requested s (applyTablePointer body s).1 := by
  unfold applyTablePointer
  split
  · exact .unchanged
  · split
    · exact .pointer _
    · exact .unchanged

theorem applyTableWrite_requested (hopen : s.tts.locked = false) : Requested s (applyTableWrite body s).1 := by
  unfold applyTableWrite
  dsimp only
  split
  · exact .unchanged
  · exact .shadow _ _ hopen (storeDelays_storageWf _ _ _)

theorem applyBankSize_requested (hopen : s.tts.locked = false) : Requested s (applyBankSize body s).1 := by
  unfold applyBankSize
  dsimp only
  split
  · exact .shadow { s.tts.shadowBank with count := field body 0 2 } (s.tts.setShadow _).pointer hopen id
  · exact .unchanged

theorem applyRegionMap_requested (hopen : s.tts.locked = false) : Requested s (applyRegionMap body s).1 := by
  unfold applyRegionMap
  dsimp only
  split
  · split
    · exact .shadow _ (s.tts.setShadow _).pointer hopen (mapRegions_storageWf _ _ _)
    · exact .unchanged
  · exact .unchanged

theorem applyTableRead_requested : Requested s (applyTableRead body s).1 := by
  unfold applyTableRead
  split
  · exact .unchanged
  · split
    · exact .read _
    · exact .unchanged

theorem applyBankActivate_requested (hopen : s.tts.locked = false) :
    Requested s (applyBankActivate body s).1 := by
  unfold applyBankActivate
  split
  · exact .unchanged
  next hcount =>
    split
    · exact .swapNow hcount hopen
    · exact .swapPending hcount hopen

theorem applySetMonitor_requested : Requested s (applySetMonitor body s).1 := by
  unfold applySetMonitor
  split
  · split
    · exact .monitor _ rfl
    · exact .unchanged
  · exact .monitor _ rfl

theorem applySetExcerpt_requested : Requested s (applySetExcerpt body s).1 := by
  unfold applySetExcerpt
  split
  · exact .unchanged
  · exact .excerpt _ rfl rfl rfl

theorem applySetAttention_requested : Requested s (applySetAttention body s).1 := by
  have hclamp := clampNat_eq (lo := 1) (hi := 64) (by omega) (field body 0 1)
  exact .attention _ (by omega) (by omega)

theorem applyStart_requested (hmode : s.mode = .standby) : Requested s (applyStart body s).1 := by
  unfold applyStart
  dsimp only
  split
  · exact .unchanged
  next hcount => exact .start hmode hcount

theorem applyFetchSummary_requested : Requested s (applyFetchSummary body s).1 := by
  unfold applyFetchSummary
  split
  · exact .unchanged
  next hqueue => exact .summary _ _ hqueue

theorem applyFetchExcerpt_requested : Requested s (applyFetchExcerpt body s).1 := by
  unfold applyFetchExcerpt
  split
  · exact .unchanged
  next hqueue => exact .chunk _ _ hqueue

end

/-- Every request whose checks have passed. -/
theorem Request.apply_requested (r : Request) (body : List Byte) {s : State} (hm : r.modeOk s.mode = true)
    (hb : (r.needsUnlocked && s.tts.locked) = false) : Requested s (r.apply body s).1 := by
  cases r with
  | status => exact .unchanged
  | reset => exact .resetPending
  | setAcquisition => exact applySetAcquisition_requested body s (by simpa [Request.modeOk] using hm)
  | setChannel => exact applySetChannel_requested body s
  | channelReport => exact applyChannelReport_requested body s
  | setRegion => exact applySetRegion_requested body s
  | setTime => exact applySetTime_requested body s
  | tablePointer => exact applyTablePointer_requested body s
  | tableWrite => exact applyTableWrite_requested body s hb
  | tableRead => exact applyTableRead_requested body s
  | bankSize => exact applyBankSize_requested body s hb
  | regionMap => exact applyRegionMap_requested body s hb
  | bankCopy => exact .copy _ hb
  | bankActivate => exact applyBankActivate_requested body s hb
  | setMonitor => exact applySetMonitor_requested body s
  | setExcerpt => exact applySetExcerpt_requested body s
  | setAttention => exact applySetAttention_requested body s
  | start => exact applyStart_requested body s (by simpa [Request.modeOk] using hm)
  | stop => exact .stop (by simpa [Request.modeOk] using hm)
  | fetchSummary => exact applyFetchSummary_requested body s
  | fetchExcerpt => exact applyFetchExcerpt_requested body s

end Sys2Proof.Machine

/-! PROOFS. Once, what the builder's walks can do: a property that each close, each opening and each count of a dead
region keeps is kept by a pass result, a swap, a round and the end of a pass. -/

namespace Sys2Proof.Machine

variable {P : State → Prop}

/-! ### Closing every candidate -/

/-- A property that each close of an OPEN region keeps is kept by closing all. -/
theorem State.closeAll_keeps {reason : CloseReason}
    (hclose : ∀ s r k, s.evb.regions[r].slot = .opened k → P s → P (s.closeCandidate r reason k)) {s : State}
    (hs : P s) : P (s.closeAll reason) := by
  refine foldl_keeps (fun u r hu => ?_) _ s hs
  split
  next hslot => exact hclose u r _ hslot hu
  next => exact hu
  next => exact hu

/-! ### Taking a pass result -/

/-- All that one region at one origin can do: nothing, a candidate opened where the region may fire or kept OPEN, a
close, a step of the dead count. -/
theorem State.regionOrigin_keeps {s : State} {r : Fin 16} (hs : P s)
    (hopen : ∀ k, s.evb.regions[r].inForce = true ∨ s.evb.regions[r].slot ≠ .idle → P (s.keepOpen r k))
    (hclose : ∀ reason k, s.evb.regions[r].slot ≠ .idle → P (s.closeCandidate r reason k))
    (hdead : ∀ n, s.evb.regions[r].slot = .dead n → P (s.onRegion r (Region.deadStep n)))
    (skipped : Bool) (d : PassResult) : P (s.regionOrigin skipped d r) := by
  unfold State.regionOrigin
  dsimp only
  split
  next => exact hs
  next =>
    split
    next hforce => exact hopen _ (.inl hforce)
    next => exact hs
  next hslot _ =>
    have hslot' : s.evb.regions[r].slot ≠ .idle := by rw [hslot]; nofun
    unfold State.firingOrigin
    dsimp only
    split
    · exact hclose _ _ hslot'
    · exact hopen _ (.inr hslot')
  next hslot _ =>
    have hslot' : s.evb.regions[r].slot ≠ .idle := by rw [hslot]; nofun
    unfold State.quietOrigin
    dsimp only
    split
    · exact hclose _ _ hslot'
    · split
      · exact hclose _ _ hslot'
      · exact hopen _ (.inr hslot')
  next hslot => exact hdead _ hslot

/-- A property that one region at one origin keeps is kept by a whole pass result. -/
theorem State.takePassResult_keeps (h : ∀ s skipped d r, P s → P (State.regionOrigin s skipped d r))
    (d : PassResult) {s : State} (hs : P s) : P (s.takePassResult d) := by
  have horigin (skipped : Bool) {u : State} (hu : P u) : P (u.builderOrigin skipped d) :=
    foldl_keeps (fun v r hv => h v skipped d r hv) _ u hu
  have hskipped : ∀ (n : Nat) (u : State), P u → P (State.skippedOrigins d n u) := by
    intro n
    induction n with
    | zero => exact fun _ hu => hu
    | succ n ih => exact fun u hu => ih _ (horigin true hu)
  exact horigin false (hskipped _ _ hs)

/-! ### Blocks that the tap and the declaration leave alone -/

@[simp] theorem State.declareEvent_regions (s : State) (r : Fin 16) (reason : CloseReason) (k : Candidate) :
    (s.declareEvent r reason k).evb.regions = s.evb.regions := by
  unfold State.declareEvent
  dsimp only
  split <;> rfl

/-- A block of the tap reaches the report queues and the engine alone. -/
theorem State.completeBlock_eq (s : State) (o : Nat) :
    ∃ q e, s.completeBlock o = (s.withRpq q).withStk e ∧ e.origins = s.stk.origins
      ∧ (q = s.rpq ∨ s.rpq.admitsMonitor = true ∧ ∃ m, q = s.rpq.append (.monitor m)) := by
  unfold State.completeBlock
  split
  · exact ⟨s.rpq, s.stk, rfl, rfl, .inl rfl⟩
  · dsimp only
    split
    next hroom => refine ⟨_, _, rfl, ?_, .inr ⟨hroom, _, rfl⟩⟩; rfl
    next => refine ⟨s.rpq, _, rfl, ?_, .inl rfl⟩; rfl

/-- So does the offer of a pass to the tap. -/
theorem State.offerTap_eq (s : State) (p : PassContext) (d : PassResult) (v : TapValue) :
    ∃ q e, s.offerTap p d v = (s.withRpq q).withStk e ∧ e.origins = s.stk.origins
      ∧ (q = s.rpq ∨ s.rpq.admitsMonitor = true ∧ ∃ m, q = s.rpq.append (.monitor m)) := by
  unfold State.offerTap
  split
  · dsimp only
    split
    · exact State.completeBlock_eq (s.withStk _) _
    · refine ⟨s.rpq, _, rfl, ?_, .inl rfl⟩; rfl
  · exact ⟨s.rpq, s.stk, rfl, rfl, .inl rfl⟩

theorem State.finishPass_unfold (s : State) (p : PassContext) (u : State)
    (hu : u = (s.takePassResult (s.passResult p)).offerTap p (s.passResult p) (s.tapValue p)) :
    s.finishPass p = u.withStk { u.stk with pass := none, passCount := satInc Config.max32 u.stk.passCount } := by
  subst hu
  simp only [State.finishPass, State.withStk]

/-- The end of a pass: its result taken, the report queues and the engine as the tap leaves them. -/
theorem State.finishPass_eq (s : State) (p : PassContext) :
    ∃ q e, s.finishPass p = ((s.takePassResult (s.passResult p)).withRpq q).withStk e
      ∧ e.origins = s.stk.origins
      ∧ (q = (s.takePassResult (s.passResult p)).rpq
        ∨ (s.takePassResult (s.passResult p)).rpq.admitsMonitor = true
          ∧ ∃ m, q = (s.takePassResult (s.passResult p)).rpq.append (.monitor m)) := by
  obtain ⟨q, e, htap, horigins, hq⟩ :=
    (s.takePassResult (s.passResult p)).offerTap_eq p (s.passResult p) (s.tapValue p)
  have hstk := (s.takePassResult_builds (s.passResult p)).stk
  refine ⟨q, { e with pass := none, passCount := satInc Config.max32 e.passCount }, ?_, ?_, hq⟩
  · rw [s.finishPass_unfold p _ htap.symm]
    simp only [State.withStk, State.withRpq]
  · exact horigins.trans (congrArg Engine.origins hstk)

/-! ### Rounds -/

/-- A round is the swap that is pending, if any, and then a change of the store alone. -/
theorem State.startRound_keeps {s : State} (hs : P s) (hswap : s.tts.swapPending = true → P s → P s.swap)
    (hround : ∀ u r, P u → P (u.withTts { u.tts with round := r })) : P s.startRound := by
  have hu : P (if s.tts.swapPending then s.swap else s) := by
    split
    next hpending => exact hswap hpending hs
    next => exact hs
  have hreach (t : TableStore) : ∃ r, t.reachRead = { t with round := r } := by
    unfold TableStore.reachRead TableStore.reachSlice
    split <;> exact ⟨_, rfl⟩
  unfold State.startRound
  dsimp only
  obtain ⟨r, hr⟩ := hreach (if s.tts.swapPending then s.swap else s).tts
  rw [hr]
  exact hround _ r hu

theorem State.serveIdle_keeps {s : State} (hs : P s) (hround : s.roundDue = true → P s → P s.startRound) :
    P s.serveIdle := by
  unfold State.serveIdle
  split
  next hdue => exact hround hdue hs
  next => exact hs

/-! ### The blocks that START and STOP leave alone -/

@[simp] theorem State.startRun_trx (s : State) : s.startRun.trx = s.trx := by
  simp only [State.startRun]
@[simp] theorem State.startRun_tbu (s : State) : s.startRun.tbu = s.tbu := by
  simp only [State.startRun]
@[simp] theorem State.startRun_tts (s : State) : s.startRun.tts = s.tts := by
  simp only [State.startRun]
@[simp] theorem State.startRun_rpq (s : State) : s.startRun.rpq = s.rpq := by
  simp only [State.startRun]
@[simp] theorem State.startRun_cpt (s : State) : s.startRun.cpt = s.cpt := by
  simp only [State.startRun]

/-- STOP keeps the queue of commands, the trunk receivers, the timebase and the port; of the conditioner it takes the
stage, the store and the engine stop by their own rules. -/
theorem State.stopRun_blocks (s : State) :
    s.stopRun.pending = s.pending ∧ s.stopRun.trx = s.trx ∧ s.stopRun.tbu = s.tbu ∧ s.stopRun.cpt = s.cpt
      ∧ s.stopRun.ccu = { s.ccu with stage := .none } ∧ s.stopRun.tts = s.tts.stop
      ∧ s.stopRun.stk = s.stk.clearRun ∧ s.stopRun.mdc = { mode := .standby, countdown := 0 } := by
  obtain ⟨u, hu, hstop⟩ := s.stopRun_eq
  obtain ⟨hpending, htrx, hccu, htbu, htts, hstk, hcpt, hmdc⟩ := u.closeAll_builds .stopped
  rw [hstop]
  simp only [State.withExu_pending, State.withExu_trx, State.withExu_ccu, State.withExu_tbu, State.withExu_tts,
    State.withExu_stk, State.withExu_cpt, State.withExu_mdc, hpending, htrx, hccu, htbu, htts, hstk, hcpt, hmdc]
  rw [hu]
  exact ⟨rfl, rfl, rfl, rfl, rfl, rfl, rfl, rfl⟩

end Sys2Proof.Machine

/-! PROOFS. A region whose enabled in force is no is IDLE (R115): each change of one region keeps it, hence the
builder's walks, every operation and every step. -/

namespace Sys2Proof.Machine

/-! ### Changes of one region -/

/-- A region that is not in force is IDLE. -/
abbrev Region.offIsIdle (g : Region) : Prop := g.inForce = false → g.slot = .idle

theorem Region.becomeIdle_offIsIdle (g : Region) : g.becomeIdle.offIsIdle := fun _ => rfl

theorem Region.clear_offIsIdle (g : Region) : g.clear.offIsIdle := fun _ => rfl

theorem Region.afterClose_offIsIdle {g : Region} (h : g.inForce = true) : g.afterClose.offIsIdle := by
  unfold Region.afterClose
  split
  · exact g.becomeIdle_offIsIdle
  · exact fun hoff => absurd (h.symm.trans hoff) nofun

theorem Region.deadStep_offIsIdle {g : Region} (n : Nat) (h : g.inForce = true) : (g.deadStep n).offIsIdle := by
  unfold Region.deadStep
  split
  · exact g.becomeIdle_offIsIdle
  · exact fun hoff => absurd (h.symm.trans hoff) nofun

theorem Region.setRecord_offIsIdle {g : Region} (rec : RegionRecord) (h : g.offIsIdle) :
    (g.setRecord rec).offIsIdle := by
  unfold Region.offIsIdle Region.setRecord
  dsimp only
  split
  · nofun
  · split
    next hidle => exact fun _ => hidle
    next => exact h

/-- A region that is not IDLE is in force. -/
theorem Builder.offIsIdle.inForce {b : Builder} (h : b.offIsIdle) {r : Fin 16}
    (hslot : b.regions[r].slot ≠ .idle) : b.regions[r].inForce = true := by
  simpa using mt (h r) hslot

/-- One region changed: only that region is to be looked at. -/
theorem State.onRegion_offIsIdle {s : State} (h : s.evb.offIsIdle) {r : Fin 16} {f : Region → Region}
    (hf : (f s.evb.regions[r]).offIsIdle) : (s.onRegion r f).evb.offIsIdle := by
  intro q
  by_cases hq : r = q
  · subst hq
    rwa [State.onRegion_same]
  · rw [State.onRegion_other _ _ _ _ hq]
    exact h q

/-! ### The builder's walks -/

theorem State.closeCandidate_offIsIdle {s : State} (h : s.evb.offIsIdle) {r : Fin 16}
    (hslot : s.evb.regions[r].slot ≠ .idle) (reason : CloseReason) (k : Candidate) :
    (s.closeCandidate r reason k).evb.offIsIdle := by
  have hregions := s.declareEvent_regions r reason k
  refine State.onRegion_offIsIdle (fun q => ?_) (Region.afterClose_offIsIdle ?_)
  · rw [hregions]
    exact h q
  · rw [hregions]
    exact h.inForce hslot

theorem State.closeAll_offIsIdle {s : State} (h : s.evb.offIsIdle) (reason : CloseReason) :
    (s.closeAll reason).evb.offIsIdle :=
  State.closeAll_keeps (P := fun s => s.evb.offIsIdle)
    (fun _ _ k hslot hs => State.closeCandidate_offIsIdle hs (by rw [hslot]; nofun) reason k) h

theorem State.regionOrigin_offIsIdle {s : State} (h : s.evb.offIsIdle) (skipped : Bool) (d : PassResult)
    (r : Fin 16) : (s.regionOrigin skipped d r).evb.offIsIdle := by
  refine State.regionOrigin_keeps (P := fun s => s.evb.offIsIdle) h (fun k hk => ?_)
    (fun reason k hslot => State.closeCandidate_offIsIdle h hslot reason k) (fun n hslot => ?_) skipped d
  · have hforce := hk.elim id h.inForce
    exact State.onRegion_offIsIdle h fun hoff => absurd (hforce.symm.trans hoff) nofun
  · exact State.onRegion_offIsIdle h (Region.deadStep_offIsIdle n (h.inForce (by rw [hslot]; nofun)))

theorem State.swap_offIsIdle {s : State} (h : s.evb.offIsIdle) : s.swap.evb.offIsIdle := by
  rw [State.swap_eq, State.withStk_evb]
  exact State.closeAll_offIsIdle (by rwa [State.withTts_evb]) .table

theorem State.startRound_offIsIdle {s : State} (h : s.evb.offIsIdle) : s.startRound.evb.offIsIdle :=
  State.startRound_keeps (P := fun s => s.evb.offIsIdle) h (fun _ => State.swap_offIsIdle) fun _ _ hu => hu

theorem State.serveIdle_offIsIdle {s : State} (h : s.evb.offIsIdle) : s.serveIdle.evb.offIsIdle :=
  State.serveIdle_keeps (P := fun s => s.evb.offIsIdle) h fun _ => State.startRound_offIsIdle

theorem State.endPass_offIsIdle {s : State} (h : s.evb.offIsIdle) : s.endPass.evb.offIsIdle := by
  unfold State.endPass
  split
  · exact h
  · obtain ⟨_, _, hfinish, -, -⟩ := s.finishPass_eq ‹PassContext›
    have htaken := State.takePassResult_keeps (P := fun s => s.evb.offIsIdle)
      (fun _ _ _ _ hs => State.regionOrigin_offIsIdle hs _ _ _) (s.passResult ‹PassContext›) h
    refine State.startRound_offIsIdle ?_
    rw [hfinish, State.withStk_evb, State.withRpq_evb]
    exact htaken

/-! ### START, STOP and the requests -/

theorem Builder.clearSlots_offIsIdle (b : Builder) : b.clearSlots.offIsIdle := by
  intro r
  simp only [Builder.clearSlots, Fin.getElem_fin, Vector.getElem_ofFn]
  exact Region.clear_offIsIdle _

theorem State.startRun_offIsIdle (s : State) : s.startRun.evb.offIsIdle := s.evb.clearSlots_offIsIdle

theorem State.stopRun_offIsIdle {s : State} (h : s.evb.offIsIdle) : s.stopRun.evb.offIsIdle := by
  obtain ⟨u, hu, hstop⟩ := s.stopRun_eq
  rw [hstop, State.withExu_evb]
  exact State.closeAll_offIsIdle (s := u) (by rw [hu]; exact h) .stopped

theorem Requested.offIsIdle {s t : State} (h : Requested s t) (hs : s.evb.offIsIdle) : t.evb.offIsIdle := by
  cases h with
  | region r rec => exact State.onRegion_offIsIdle hs (Region.setRecord_offIsIdle rec (hs r))
  | read => exact State.serveIdle_offIsIdle (s := s.withTts _) hs
  | copy => exact State.serveIdle_offIsIdle (s := s.withTts _) hs
  | swapNow => exact State.swap_offIsIdle hs
  | swapPending => exact State.serveIdle_offIsIdle (s := s.withTts _) hs
  | start => exact State.startRun_offIsIdle _
  | stop => exact State.stopRun_offIsIdle hs
  | _ => exact hs

/-! ### Every step -/

theorem offIsIdle_kept : Kept fun s => s.evb.offIsIdle where
  pending _ _ h := h
  trx _ _ h := h
  cpt _ _ h := h
  powerOn _ _ := by
    intro r _
    simp [State.powerOn, Builder.powerOn, Region.powerOn]
  softReset s _ := s.evb.clearSlots_offIsIdle
  completeTick s _ h := by obtain ⟨_, _, _, he⟩ := s.completeTick_eq; rw [he]; exact h
  endPriming s _ h := by obtain ⟨_, _, _, he⟩ := s.endPriming_eq; rw [he]; exact h
  ppsEdge s h := by obtain ⟨_, _, _, _, he⟩ := s.ppsEdge_marks; rw [he]; exact h
  idle _ _ _ h := h
  startRound _ _ h := State.startRound_offIsIdle h
  sampleEpoch s n _ h := by obtain ⟨_, _, _, he⟩ := (s.elapse n).issueIndex_eq; rw [he]; exact h
  acquiringTimeout _ _ _ h := h
  rollover s n _ h := by obtain ⟨_, _, _, _, he⟩ := (s.elapse n).rollover_marks; rw [he]; exact h
  enterHoldover s n _ h := by obtain ⟨_, _, _, _, he⟩ := (s.elapse n).enterHoldover_marks; rw [he]; exact h
  expireHoldover s n _ h := by obtain ⟨_, _, _, _, he⟩ := (s.elapse n).expireHoldover_marks; rw [he]; exact h
  passStart s _ h := by unfold State.startPass; split <;> exact h
  passEnd s n _ _ _ h := State.endPass_offIsIdle (s := s.elapse n) h
  readGrant _ _ _ h := State.serveIdle_offIsIdle (s := State.withTts _ _) h
  copySlice _ _ _ h := State.serveIdle_offIsIdle (s := State.withTts _ _) h
  excerptTake s _ h := by unfold State.take; split <;> exact h
  gapTimeout _ _ _ h := h
  request r body _ _ hm hb h := (r.apply_requested body hm hb).offIsIdle h

/-- Settles O44: every operation that a step is made of keeps it. -/
theorem offRegionsAreIdle : Obligations.OffRegionsAreIdle := fun _ _ hs hstep => offIsIdle_kept.step hs hstep

end Sys2Proof.Machine

/-! PROOFS. The timebase stays in its windows and on its schedule (R41, R42, R48 to R58): the invariant in three
parts (what is measured, the schedule, the counter), what the passing of time, an index, a mark and a transition make
of each, and every step. -/

namespace Sys2Proof.Machine

/-! ### The invariant in three parts -/

/-- C_ref and the values that hold over many seconds, within their ranges. -/
def Timebase.Measured (t : Timebase) : Prop :=
  (Config.windowLow ≤ t.cRef ∧ t.cRef ≤ Config.windowHigh)
    ∧ t.lockStreak ≤ 4 ∧ t.missed ≤ 3600 ∧ 1 ≤ t.holdoverLimit ∧ t.holdoverLimit ≤ 3600

/-- The second in progress on its schedule (R42). -/
def Timebase.OnSchedule (t : Timebase) : Prop :=
  (Config.windowLow ≤ t.cInUse ∧ t.cInUse ≤ Config.windowHigh)
    ∧ t.q = t.cInUse / fsOf t.fsInForce ∧ t.r = t.cInUse % fsOf t.fsInForce
    ∧ t.sampleIndex < fsOf t.fsInForce
    ∧ (t.sampleIndex + 1 < fsOf t.fsInForce → t.position ≤ t.issueAt (t.sampleIndex + 1))
    ∧ t.issueAt t.sampleIndex ≤ t.position

theorem Timebase.inBounds_iff {t : Timebase} :
    t.inBounds ↔ t.Measured ∧ t.OnSchedule ∧ t.counterInBounds := by
  unfold Timebase.inBounds Timebase.Measured Timebase.OnSchedule
  tauto

theorem fsOf_pos (code : Fin 4) : 0 < fsOf code := by
  unfold fsOf
  positivity

theorem Timebase.issueAt_mono (t : Timebase) {i j : Nat} (h : i ≤ j) : t.issueAt i ≤ t.issueAt j := by
  have hmul : i * t.q ≤ j * t.q := Nat.mul_le_mul_right _ h
  unfold Timebase.issueAt
  omega

/-! ### The passing of time -/

/-- Up to the instant of the next event the position does not pass the next index, nor the counter its bound. -/
theorem State.elapse_inBounds {s : State} {n : Nat} (hquiet : s.quietFor n = true) (h : s.tbu.inBounds) :
    (s.tbu.elapse n).inBounds := by
  obtain ⟨hmeasured, ⟨hc, hq, hr, hindex, hnext, hissued⟩, hcounter⟩ := Timebase.inBounds_iff.mp h
  have hbefore {e : Instr} {d : Nat} (he : e ∈ ownEvents) (hd : s.dueIn e = some d) : n ≤ d :=
    State.le_of_quietFor hquiet he hd
  refine Timebase.inBounds_iff.mpr ⟨hmeasured, ⟨hc, hq, hr, hindex, fun hlt => ?next, ?issued⟩, ?counter⟩
  case next =>
    have hle : n ≤ s.tbu.issueAt (s.tbu.sampleIndex + 1) - s.tbu.position :=
      hbefore (e := .sampleEpoch) (by simp [ownEvents]) (if_pos hlt)
    have hposition := hnext hlt
    show s.tbu.position + n ≤ s.tbu.issueAt (s.tbu.sampleIndex + 1)
    omega
  case issued => exact Nat.le_add_right_of_le hissued
  case counter =>
    unfold Timebase.counterInBounds at hcounter ⊢
    rw [Timebase.elapse_state]
    cases hstate : s.tbu.state <;> rw [hstate] at hcounter
    case free =>
      have hle : n ≤ s.tbu.cInUse - s.tbu.position :=
        hbefore (e := .freeRunRollover) (by simp [ownEvents]) (if_pos (by simp [Timebase.selfEnding, hstate]))
      simp only [Timebase.elapse_counter, Timebase.elapse_position, Timebase.elapse_cInUse] at hcounter ⊢
      omega
    case acquiring =>
      have hle : n ≤ Config.windowHigh - s.tbu.counter :=
        hbefore (e := .acquiringTimeout) (by simp [ownEvents]) (if_pos hstate)
      simp only [Timebase.elapse_counter, Timebase.elapse_lockStreak] at hcounter ⊢
      omega
    case locked =>
      have hle : n ≤ s.tbu.cRef + Config.halfWindow - s.tbu.counter :=
        hbefore (e := .holdoverEntry) (by simp [ownEvents]) (if_pos hstate)
      simp only [Timebase.elapse_counter, Timebase.elapse_cRef] at hcounter ⊢
      omega
    case holdover =>
      have hle : n ≤ s.tbu.cRef + Config.halfWindow - s.tbu.counter :=
        hbefore (e := .holdoverExpiry) (by simp [ownEvents]) (if_pos hstate)
      simp only [Timebase.elapse_counter, Timebase.elapse_cRef] at hcounter ⊢
      omega

/-- Once time has passed, the cycle in which the epoch was opened is over. -/
theorem Timebase.elapse_justOpened {t : Timebase} {n : Nat} (hissued : t.issueAt t.sampleIndex ≤ t.position)
    (h : (t.elapse n).justOpened = true) : n = 0 := by
  have hposition : t.position + n = t.issueAt t.sampleIndex := beq_iff_eq.mp h
  omega

theorem Timebase.elapse_labelInOrder {t : Timebase} (n : Nat) (h : t.inBounds) (hlabel : t.labelInOrder) :
    (t.elapse n).labelInOrder := by
  obtain ⟨-, ⟨-, -, -, -, -, hissued⟩, -⟩ := Timebase.inBounds_iff.mp h
  refine ⟨hlabel.1, fun hopened => ?_⟩
  obtain rfl := Timebase.elapse_justOpened hissued hopened
  exact hlabel.2 hopened

/-- Where no event is due, none falls due within one cycle. -/
theorem State.quietFor_one {s : State} (h : s.dueEvent = none) : s.quietFor 1 = true := by
  simp only [State.dueEvent, List.find?_eq_none] at h
  simp only [State.quietFor, List.all_eq_true]
  intro e he
  have hnot := h e he
  cases hd : s.dueIn e with
  | none => rfl
  | some d =>
    rw [hd] at hnot
    simp only [Option.some.injEq, decide_eq_true_eq] at hnot ⊢
    omega

/-! ### An index -/

/-- The next index, issued at its position, keeps the schedule. -/
theorem State.issueIndex_inBounds {s : State} {n : Nat} (hcomes : s.comesIn .sampleEpoch n)
    (h : s.tbu.inBounds) : (s.elapse n).issueIndex.tbu.inBounds := by
  obtain ⟨hdue, hquiet, -⟩ := hcomes
  obtain ⟨hmeasured, ⟨hc, hq, hr, hindex, hnext, -⟩, hcounter⟩ :=
    Timebase.inBounds_iff.mp (s.elapse_inBounds hquiet h)
  simp only [State.dueIn] at hdue
  split at hdue
  case isFalse => cases hdue
  case isTrue hlt =>
    cases hdue
    have hposition : s.tbu.position ≤ s.tbu.issueAt (s.tbu.sampleIndex + 1) := by
      obtain ⟨-, ⟨-, -, -, -, hbefore, -⟩, -⟩ := Timebase.inBounds_iff.mp h
      exact hbefore hlt
    have hreached : s.tbu.position + (s.tbu.issueAt (s.tbu.sampleIndex + 1) - s.tbu.position)
        = s.tbu.issueAt (s.tbu.sampleIndex + 1) := by omega
    refine Timebase.inBounds_iff.mpr ⟨hmeasured, ⟨hc, hq, hr, hlt, fun _ => ?_, hreached.ge⟩, hcounter⟩
    exact hreached.le.trans (s.tbu.issueAt_mono (by simp [State.issueIndex, State.handover]))

/-! ### A mark -/

/-- A second begins on its schedule, whichever C it is given. -/
theorem Timebase.mark_onSchedule {t : Timebase} (step : Bool) (h : t.Measured) : (t.mark step).OnSchedule := by
  have hc : Config.windowLow ≤ (t.mark step).cInUse ∧ (t.mark step).cInUse ≤ Config.windowHigh := by
    show _ ≤ (if t.selfEnding then _ else _) ∧ (if t.selfEnding then _ else _) ≤ _
    split
    · decide
    · exact h.1
  refine ⟨hc, rfl, ?_, fsOf_pos _, fun _ => Nat.zero_le _, ?_⟩
  · have hdiv := Nat.mod_eq_sub_div_mul (x := (t.mark step).cInUse) (k := fsOf t.fsSetting)
    exact hdiv.symm
  · show (t.mark step).issueAt 0 ≤ 0
    simp [Timebase.issueAt]

/-- A mark keeps the bounds, where in FREE it finds the counter cleared. -/
theorem Timebase.mark_inBounds {t : Timebase} (step : Bool) (h : t.Measured) (hcounter : t.counterInBounds)
    (hfree : t.state = .free → t.counter = 0) : (t.mark step).inBounds := by
  refine Timebase.inBounds_iff.mpr ⟨h, Timebase.mark_onSchedule step h, ?_⟩
  unfold Timebase.counterInBounds at hcounter ⊢
  show match t.state with | .free => _ | .acquiring => _ | .locked | .holdover => _
  cases hstate : t.state <;> rw [hstate] at hcounter
  case free =>
    have hzero : (t.mark step).counter = 0 := hfree hstate
    exact ⟨hzero.trans_le (Nat.zero_le _), hzero.trans_le (Nat.zero_le _)⟩
  all_goals exact hcounter

/-- What is kept of the timebase: its bounds, and, where `L` holds, the order of its label. -/
def Timebase.InBoundsAndOrder (L : Prop) (t : Timebase) : Prop := t.inBounds ∧ (L → t.labelInOrder)

section
variable {L : Prop} {s : State}

theorem State.mark_inBoundsAndOrder (step : Bool) (h : s.tbu.Measured) (hcounter : s.tbu.counterInBounds)
    (hfree : s.tbu.state = .free → s.tbu.counter = 0) :
    (State.mark step s).tbu.InBoundsAndOrder L := by
  rw [State.mark_tbu]
  exact ⟨Timebase.mark_inBounds step h hcounter hfree, fun _ => Timebase.mark_labelInOrder step _⟩

theorem State.elapse_inBoundsAndOrder {n : Nat} (hquiet : s.quietFor n = true) (h : s.tbu.InBoundsAndOrder L) :
    (s.elapse n).tbu.InBoundsAndOrder L :=
  ⟨s.elapse_inBounds hquiet h.1, fun hL => Timebase.elapse_labelInOrder n h.1 (h.2 hL)⟩

/-! ### PPS edges -/

/-- An edge in FREE: a measurement begins (R47). -/
theorem Timebase.restart_inBounds {t : Timebase} (st : TimebaseState) (h : t.inBounds) :
    (t.restartMeasurement.enter st).inBounds := by
  obtain ⟨⟨hcRef, -, hrest⟩, hschedule, -⟩ := Timebase.inBounds_iff.mp h
  refine Timebase.inBounds_iff.mpr ⟨⟨hcRef, Nat.zero_le _, hrest⟩, hschedule, ?_⟩
  cases st with
  | acquiring => exact ⟨Nat.zero_le _, Nat.zero_le _⟩
  | free => exact ⟨Nat.zero_le _, Nat.zero_le _⟩
  | locked => exact Nat.zero_le _
  | holdover => exact Nat.zero_le _

theorem State.ppsEdge_inBoundsAndOrder (h : s.tbu.InBoundsAndOrder L) : s.ppsEdge.tbu.InBoundsAndOrder L := by
  obtain ⟨hbounds, hlabel⟩ := h
  obtain ⟨⟨hcRef, hstreak, hrest⟩, hschedule, hcounter⟩ := Timebase.inBounds_iff.mp hbounds
  unfold Timebase.counterInBounds at hcounter
  unfold State.ppsEdge
  dsimp only
  split
  next =>
    exact ⟨Timebase.restart_inBounds (t := { s.tbu with ppsEdges := _ }) .acquiring hbounds,
      fun hL => Timebase.enter_labelInOrder _ (hlabel hL).1⟩
  next hstate =>
    rw [hstate] at hcounter
    split
    · refine ⟨Timebase.inBounds_iff.mpr ⟨⟨hcRef, Nat.zero_le _, hrest⟩, hschedule, ?_⟩, hlabel⟩
      simp [Timebase.counterInBounds, Timebase.restartMeasurement, hstate]
    next hwindow =>
      have hcRef' : Config.windowLow ≤ s.tbu.counter ∧ s.tbu.counter ≤ Config.windowHigh :=
        ⟨Nat.le_of_not_lt hwindow, hcounter.1⟩
      have hstreak' : s.tbu.lockStreak + 1 ≤ 4 := Nat.succ_le_succ hcounter.2
      split
      next hmore =>
        refine ⟨Timebase.inBounds_iff.mpr ⟨⟨hcRef', hstreak', hrest⟩, hschedule, ?_⟩, hlabel⟩
        simp only [Timebase.counterInBounds, Timebase.acceptAcquiring, hstate]
        exact ⟨Nat.zero_le _, Nat.le_of_lt_succ hmore⟩
      next => exact State.mark_inBoundsAndOrder true ⟨hcRef', hstreak', hrest⟩ (Nat.zero_le _) nofun
  next hstate =>
    rw [hstate] at hcounter
    split
    · refine ⟨Timebase.inBounds_iff.mpr ⟨⟨hcRef, hstreak, hrest⟩, hschedule, ?_⟩, hlabel⟩
      simpa [Timebase.counterInBounds, Timebase.outlier, hstate] using hcounter
    · have hclamp := clampNat_eq (lo := Config.windowLow) (hi := Config.windowHigh) (by decide) s.tbu.counter
      refine State.mark_inBoundsAndOrder false ⟨?_, hstreak, hrest⟩ ?_ fun _ => rfl
      · simp only [Timebase.acceptLocked]
        omega
      · simp [Timebase.counterInBounds, Timebase.acceptLocked, hstate]
  next hstate =>
    rw [hstate] at hcounter
    split
    · refine ⟨Timebase.inBounds_iff.mpr ⟨⟨hcRef, hstreak, hrest⟩, hschedule, ?_⟩, hlabel⟩
      simpa [Timebase.counterInBounds, Timebase.outlier, hstate] using hcounter
    · exact State.mark_inBoundsAndOrder true ⟨hcRef, hstreak, hrest⟩ (Nat.zero_le _) nofun

/-! ### Marks of the timebase's own -/

theorem State.rollover_inBoundsAndOrder (h : s.tbu.inBounds) : s.rollover.tbu.InBoundsAndOrder L := by
  obtain ⟨hmeasured, -, hcounter⟩ := Timebase.inBounds_iff.mp h
  refine State.mark_inBoundsAndOrder false hmeasured ?_ fun hfree => if_pos hfree
  unfold Timebase.counterInBounds at hcounter ⊢
  cases hstate : s.tbu.state <;> rw [hstate] at hcounter <;> simp [hcounter]

theorem State.enterHoldover_inBoundsAndOrder (h : s.tbu.Measured) :
    s.enterHoldover.tbu.InBoundsAndOrder L := by
  obtain ⟨hcRef, hstreak, -, hlimit⟩ := h
  exact State.mark_inBoundsAndOrder true ⟨hcRef, hstreak, Nat.le_of_lt_succ (by simp), hlimit⟩
    (Nat.le_add_left _ _) nofun

theorem State.expireHoldover_inBoundsAndOrder (h : s.tbu.Measured) (hstate : s.tbu.state = .holdover) :
    s.expireHoldover.tbu.InBoundsAndOrder L := by
  obtain ⟨hcRef, hstreak, hcount, hlimit⟩ := h
  unfold State.expireHoldover
  split
  next hmissed =>
    refine State.mark_inBoundsAndOrder false ⟨hcRef, hstreak, hmissed.trans_le hlimit.2, hlimit⟩ ?_ ?_
    · simp [Timebase.counterInBounds, hstate]
    · simp [hstate]
  next =>
    exact State.mark_inBoundsAndOrder false ⟨hcRef, Nat.zero_le _, hcount, hlimit⟩
      ⟨Nat.zero_le _, Nat.zero_le _⟩ fun _ => rfl

/-! ### Resets and requests -/

theorem nominalSecond_inWindow :
    Config.windowLow ≤ Config.nominalSecond ∧ Config.nominalSecond ≤ Config.windowHigh := by decide

theorem Timebase.powerOn_inBounds : Timebase.powerOn.inBounds := by
  refine Timebase.inBounds_iff.mpr ⟨?_, ?_, ?_⟩
  · exact ⟨nominalSecond_inWindow, by decide, by decide, by decide, by decide⟩
  · exact ⟨nominalSecond_inWindow, by decide, by decide, by decide, by decide, by decide⟩
  · simp [Timebase.counterInBounds, Timebase.powerOn]

/-- The second in progress stays on its schedule; the counter begins anew (R62). -/
theorem Timebase.softReset_inBounds {t : Timebase} (h : t.inBounds) : t.softReset.inBounds := by
  obtain ⟨⟨-, -, -, hlimit⟩, hschedule, -⟩ := Timebase.inBounds_iff.mp h
  exact Timebase.inBounds_iff.mpr
    ⟨⟨nominalSecond_inWindow, Nat.zero_le _, Nat.zero_le _, hlimit⟩, hschedule, Nat.zero_le _, Nat.zero_le _⟩

theorem Timebase.softReset_labelInOrder {t : Timebase} (h : t.labelInOrder) : t.softReset.labelInOrder :=
  Timebase.enter_labelInOrder .free h.1

/-- The requests that reach the timebase: SET TIME within its clamp, and SET ACQUISITION's setting alone. -/
theorem Requested.inBoundsAndOrder {t : State} (h : Requested s t) (hs : s.tbu.InBoundsAndOrder L) :
    t.tbu.InBoundsAndOrder L := by
  have hserves {u : State} (hu : Serves s u) : u.tbu.InBoundsAndOrder L := hu.tbu ▸ hs
  cases h with
  | time p limit hlow hhigh =>
    obtain ⟨hbounds, hlabel⟩ := hs
    obtain ⟨⟨hcRef, hstreak, hmissed, -⟩, hschedule, hcounter⟩ := Timebase.inBounds_iff.mp hbounds
    exact ⟨Timebase.inBounds_iff.mpr ⟨⟨hcRef, hstreak, hmissed, hlow, hhigh⟩, hschedule, hcounter⟩, hlabel⟩
  | read => exact hserves ((s.withTts_serves _).trans (State.serveIdle_serves _))
  | copy => exact hserves ((s.withTts_serves _).trans (State.serveIdle_serves _))
  | swapNow => exact hserves s.swap_serves
  | swapPending => exact hserves ((s.withTts_serves _).trans (State.serveIdle_serves _))
  | start =>
    rwa [State.startRun_tbu, (State.takeAll_builds _ s).tbu]
  | stop =>
    obtain ⟨-, -, htbu, -⟩ := s.stopRun_blocks
    rwa [htbu]
  | _ => exact hs

end

/-! ### Every step -/

theorem inBoundsAndOrder_kept (L : Prop) : Kept fun s => s.tbu.InBoundsAndOrder L where
  pending _ _ h := h
  trx _ _ h := h
  cpt _ _ h := h
  powerOn _ _ := ⟨Timebase.powerOn_inBounds, fun _ => ⟨rfl, fun _ => rfl⟩⟩
  softReset _ h := ⟨Timebase.softReset_inBounds h.1, fun hL => Timebase.softReset_labelInOrder (h.2 hL)⟩
  completeTick s _ h := by obtain ⟨_, _, _, he⟩ := s.completeTick_eq; rw [he]; exact h
  endPriming s _ h := by obtain ⟨_, _, _, he⟩ := s.endPriming_eq; rw [he]; exact h
  ppsEdge _ h := State.ppsEdge_inBoundsAndOrder h
  idle _ _ hdue h := State.elapse_inBoundsAndOrder (State.quietFor_one hdue) h
  startRound s _ h := s.startRound_serves.tbu ▸ h
  sampleEpoch s n hcomes h :=
    ⟨State.issueIndex_inBounds hcomes h.1, fun _ => (s.elapse n).issueIndex_labelInOrder⟩
  acquiringTimeout s n hcomes h := by
    have helapsed := State.elapse_inBoundsAndOrder hcomes.2.1 h
    exact ⟨Timebase.restart_inBounds .free helapsed.1,
      fun hL => Timebase.enter_labelInOrder .free (helapsed.2 hL).1⟩
  rollover _ _ hcomes h := State.rollover_inBoundsAndOrder (State.elapse_inBounds hcomes.2.1 h.1)
  enterHoldover _ _ _ h := State.enterHoldover_inBoundsAndOrder (Timebase.inBounds_iff.mp h.1).1
  expireHoldover s n hcomes h := by
    refine State.expireHoldover_inBoundsAndOrder (Timebase.inBounds_iff.mp h.1).1 ?_
    obtain ⟨hdue, -⟩ := hcomes
    simp only [State.dueIn] at hdue
    split at hdue
    next hstate => exact hstate
    next => cases hdue
  passStart s _ h := s.startPass_serves.tbu ▸ h
  passEnd s n _ hcomes _ h :=
    (s.elapse n).endPass_serves.tbu ▸ State.elapse_inBoundsAndOrder hcomes.2.1 h
  readGrant s n hcomes h := (s.elapse n).grantRead_serves.tbu ▸ State.elapse_inBoundsAndOrder hcomes.2.1 h
  copySlice s n hcomes h := (s.elapse n).endSlice_serves.tbu ▸ State.elapse_inBoundsAndOrder hcomes.2.1 h
  excerptTake s _ h := s.take_builds.tbu ▸ h
  gapTimeout _ _ hcomes h := State.elapse_inBoundsAndOrder hcomes.2.1 h
  request r body _ _ hm hb h := (r.apply_requested body hm hb).inBoundsAndOrder h

/-- Settles O20, the order of the label being kept where the state before has it. -/
theorem timebaseStaysInItsWindows : Obligations.TimebaseStaysInItsWindows := fun s _ hs hstep =>
  (inBoundsAndOrder_kept s.tbu.labelInOrder).step ⟨hs, id⟩ hstep

end Sys2Proof.Machine

/-! PROOFS. Once, what an index, a mark and a PPS edge do to a property that does not look at the timebase: they keep
it where a handover and a refill do. -/

namespace Sys2Proof.Machine

/-- A property that the timebase has no part in, and that a handover and a refill of the allowance keep. -/
structure KeptByEpochs (P : State → Prop) : Prop where
  timebase : ∀ s b, P s → P (s.withTbu b)
  handover : ∀ s, P s → P s.handover
  refill : ∀ s, P s → P (s.withExu s.exu.refill)

namespace KeptByEpochs

variable {P : State → Prop} (h : KeptByEpochs P) {s : State}
include h

theorem issueIndex (hs : P s) : P s.issueIndex := h.timebase _ _ (h.handover s hs)

theorem mark (step : Bool) (hs : P s) : P (State.mark step s) := by
  have hu : P (if s.tbu.justOpened then s else s.handover) := by
    split
    · exact hs
    · exact h.handover s hs
  exact h.refill _ (h.timebase _ ((if s.tbu.justOpened then s else s.handover).tbu.mark step) hu)

theorem rollover (hs : P s) : P s.rollover := h.mark false (h.timebase s _ hs)

theorem enterHoldover (hs : P s) : P s.enterHoldover := h.mark true (h.timebase s _ hs)

theorem expireHoldover (hs : P s) : P s.expireHoldover := by
  unfold State.expireHoldover
  split
  · exact h.mark false (h.timebase s _ hs)
  · exact h.mark false (h.timebase s _ hs)

theorem ppsEdge (hs : P s) : P s.ppsEdge := by
  unfold State.ppsEdge
  dsimp only
  split
  next => exact h.timebase s _ hs
  next =>
    split
    · exact h.timebase s _ hs
    · split
      · exact h.timebase s _ hs
      · exact h.mark true (h.timebase s _ hs)
  next =>
    split
    · exact h.timebase s _ hs
    · exact h.mark false (h.timebase s _ hs)
  next =>
    split
    · exact h.timebase s _ hs
    · exact h.mark true (h.timebase s _ hs)

end KeptByEpochs

end Sys2Proof.Machine

/-! PROOFS. The table in service is never empty (R64, R72, R75): the invariant of the store alone, what each change of
the store makes of it, and every step. -/

namespace Sys2Proof.Machine

/-! ### The store -/

/-- The store's part of the invariant: in a run the active table has a node, and a pending swap brings in a table
that has one with no copy beside it. -/
def TableStore.InService (run : Prop) (t : TableStore) : Prop :=
  (run → 1 ≤ t.activeBank.count) ∧ (t.swapPending = true → 1 ≤ t.shadowBank.count ∧ t.copy = none)

@[simp] theorem TableStore.setShadow_active (t : TableStore) (b : Bank) : (t.setShadow b).active = t.active := by
  unfold TableStore.setShadow TableStore.setBank
  split <;> rfl

@[simp] theorem TableStore.setShadow_activeBank (t : TableStore) (b : Bank) :
    (t.setShadow b).activeBank = t.activeBank := by
  unfold TableStore.activeBank
  rw [TableStore.setShadow_active]
  cases h : t.active <;> simp [TableStore.setShadow, h, BankId.other, TableStore.setBank, TableStore.bank]

@[simp] theorem TableStore.setShadow_shadowBank (t : TableStore) (b : Bank) :
    (t.setShadow b).shadowBank = b := by
  unfold TableStore.shadowBank
  rw [TableStore.setShadow_active]
  cases h : t.active <;> simp [TableStore.setShadow, h, BankId.other, TableStore.setBank, TableStore.bank]

/-- Beside the banks a change of the shadow bank reaches nothing. -/
theorem TableStore.setShadow_eq (t : TableStore) (b : Bank) :
    ∃ x y, t.setShadow b = { t with bankA := x, bankB := y } := by
  unfold TableStore.setShadow TableStore.setBank
  split <;> exact ⟨_, _, rfl⟩

@[simp] theorem TableStore.setShadow_swapPending (t : TableStore) (b : Bank) :
    (t.setShadow b).swapPending = t.swapPending := by
  obtain ⟨_, _, h⟩ := t.setShadow_eq b; rw [h]
@[simp] theorem TableStore.setShadow_copy (t : TableStore) (b : Bank) : (t.setShadow b).copy = t.copy := by
  obtain ⟨_, _, h⟩ := t.setShadow_eq b; rw [h]
@[simp] theorem TableStore.setShadow_round (t : TableStore) (b : Bank) : (t.setShadow b).round = t.round := by
  obtain ⟨_, _, h⟩ := t.setShadow_eq b; rw [h]
@[simp] theorem TableStore.setShadow_waitingRead (t : TableStore) (b : Bank) :
    (t.setShadow b).waitingRead = t.waitingRead := by
  obtain ⟨_, _, h⟩ := t.setShadow_eq b; rw [h]
@[simp] theorem TableStore.setShadow_pointer (t : TableStore) (b : Bank) :
    (t.setShadow b).pointer = t.pointer := by
  obtain ⟨_, _, h⟩ := t.setShadow_eq b; rw [h]

/-- An unlocked bank has neither a swap pending nor a copy. -/
theorem TableStore.locked_eq_false_iff {t : TableStore} :
    t.locked = false ↔ t.copy = none ∧ t.swapPending = false := by
  simp [TableStore.locked]

theorem TableStore.swapped_activeBank (t : TableStore) (b : Bool) :
    ({ t with active := t.active.other, swapPending := b } : TableStore).activeBank = t.shadowBank := by
  unfold TableStore.activeBank TableStore.shadowBank
  cases t.active <;> rfl

/-- A slice leaves the active table as it is, and runs beside no pending swap. -/
theorem TableStore.copySlice_inService {run : Prop} {t : TableStore} (h : t.InService run) :
    t.copySlice.InService run := by
  obtain ⟨hactive, hpending⟩ := h
  unfold TableStore.copySlice
  split
  next => exact ⟨hactive, hpending⟩
  next hcopy =>
    have hnot : t.swapPending = false := by
      by_contra hswap
      exact absurd ((hpending (by simpa using hswap)).2.symm.trans hcopy) nofun
    dsimp only
    split
    · exact ⟨fun hrun => (t.setShadow_activeBank _).symm ▸ hactive hrun,
        fun hswap => absurd ((t.setShadow_swapPending _).symm.trans hswap) (by simp [hnot])⟩
    · exact ⟨fun hrun => (t.setShadow_activeBank _).symm ▸ hactive hrun,
        fun hswap => absurd ((t.setShadow_swapPending _).symm.trans hswap) (by simp [hnot])⟩

/-- Where the shadow table has a node, the swap brings it into service. -/
theorem State.swap_inService {s : State} (h : 1 ≤ s.tts.shadowBank.count) (run : Prop) :
    s.swap.tts.InService run := by
  rw [State.swap_tts]
  exact ⟨fun _ => (s.tts.swapped_activeBank false).symm ▸ h, nofun⟩

/-! ### The part -/

theorem State.tableInService_iff {s : State} :
    s.tableInService ↔ s.tts.InService (s.mode ≠ .standby) ∧ (s.ccu.stage ≠ .none → s.mode ≠ .standby) :=
  and_assoc.symm

/-- Where mode and stage stay, the store is to be looked at alone. -/
theorem State.tableInService_of_serves {s t : State} (h : s.tableInService) (ht : Serves s t)
    (htts : t.tts.InService (s.mode ≠ .standby)) : t.tableInService := by
  have hmode : t.mode = s.mode := congrArg ModeController.mode ht.mdc
  rw [State.tableInService_iff, ht.ccu, hmode]
  exact ⟨htts, (State.tableInService_iff.mp h).2⟩

theorem State.swap_tableInService {s : State} (h : s.tableInService) (hcount : 1 ≤ s.tts.shadowBank.count) :
    s.swap.tableInService :=
  State.tableInService_of_serves h s.swap_serves (State.swap_inService hcount _)

theorem State.startRound_tableInService {s : State} (h : s.tableInService) : s.startRound.tableInService :=
  State.startRound_keeps (P := State.tableInService) h
    (fun hswap hs => State.swap_tableInService hs (hs.2.1 hswap).1) fun _ _ hu => hu

theorem State.serveIdle_tableInService {s : State} (h : s.tableInService) : s.serveIdle.tableInService :=
  State.serveIdle_keeps (P := State.tableInService) h fun _ => State.startRound_tableInService

theorem State.finishPass_tts (s : State) (p : PassContext) : (s.finishPass p).tts = s.tts := by
  obtain ⟨_, _, hfinish, -, -⟩ := s.finishPass_eq p
  rw [hfinish, State.withStk_tts, State.withRpq_tts, (s.takePassResult_builds _).tts]

theorem State.endPass_tableInService {s : State} (h : s.tableInService) : s.endPass.tableInService := by
  unfold State.endPass
  split
  · exact h
  · refine State.startRound_tableInService (State.tableInService_of_serves h (s.finishPass_serves _) ?_)
    rw [State.finishPass_tts]
    exact (State.tableInService_iff.mp h).1

/-! ### The epoch event -/

/-- A handover leaves a stage only in a run. -/
theorem Conditioner.handover_stage_of_standby {m : Mode} {c : Conditioner} (hm : m = .standby)
    (samples : Fin 48 → Option (Int × Bool)) (l : Label) : (c.handover m samples l).stage = c.stage :=
  (Conditioner.handover_unnumbered (.inl hm) samples l).2.2.1

theorem State.handover_tableInService {s : State} (h : s.tableInService) : s.handover.tableInService := by
  obtain ⟨hactive, hpending, hstage⟩ := h
  refine ⟨hactive, hpending, fun hne hm => ?_⟩
  replace hm : s.mode = .standby := hm
  rw [State.handover_ccu, Conditioner.handover_stage_of_standby hm] at hne
  exact hstage hne hm

theorem tableInService_keptByEpochs : KeptByEpochs State.tableInService where
  timebase _ _ h := h
  handover _ h := State.handover_tableInService h
  refill _ h := h

/-- A tick completes in a run, and the run goes on. -/
theorem State.completeTick_tableInService {s : State} (hstage : s.ccu.stage = .completion)
    (h : s.tableInService) : s.completeTick.tableInService := by
  obtain ⟨hactive, hpending, hrun⟩ := h
  have hmode : s.mdc.mode ≠ .standby := hrun (by rw [hstage]; nofun)
  unfold State.completeTick
  generalize s.ccu.completeTick = c
  dsimp only
  split
  next hstandby => exact absurd hstandby hmode
  next hpriming => exact ⟨fun _ => hactive hmode, hpending, fun _ => hmode⟩
  next hlistening => exact ⟨fun _ => hactive hmode, hpending, fun _ => hmode⟩

theorem State.endPriming_tableInService {s : State} (hstage : s.ccu.stage = .primingEnd)
    (h : s.tableInService) : s.endPriming.tableInService := by
  obtain ⟨hactive, hpending, hrun⟩ := h
  have hmode : s.mode ≠ .standby := hrun (by rw [hstage]; nofun)
  exact ⟨fun _ => hactive hmode, hpending, fun hne => absurd rfl hne⟩

/-! ### The requests -/

theorem Requested.tableInService {s t : State} (h : Requested s t) (hs : s.tableInService) :
    t.tableInService := by
  obtain ⟨hactive, hpending, hstage⟩ := hs
  cases h with
  | shadow b p hopen =>
    have hnot := (TableStore.locked_eq_false_iff.mp hopen).2
    exact ⟨fun hrun => (s.tts.setShadow_activeBank b).symm ▸ hactive hrun,
      fun hswap => absurd ((s.tts.setShadow_swapPending b).symm.trans hswap) (by simp [hnot]), hstage⟩
  | read r =>
    exact State.serveIdle_tableInService (s := s.withTts { s.tts with waitingRead := some r })
      ⟨hactive, hpending, hstage⟩
  | copy j hopen =>
    have hnot := (TableStore.locked_eq_false_iff.mp hopen).2
    exact State.serveIdle_tableInService (s := s.withTts { s.tts with copy := some j })
      ⟨hactive, fun hswap => absurd (hnot.symm.trans hswap) nofun, hstage⟩
  | swapNow hcount => exact State.swap_tableInService ⟨hactive, hpending, hstage⟩ (Nat.pos_of_ne_zero hcount)
  | swapPending hcount hopen =>
    exact State.serveIdle_tableInService (s := s.withTts { s.tts with swapPending := true })
      ⟨hactive, fun _ => ⟨Nat.pos_of_ne_zero hcount, (TableStore.locked_eq_false_iff.mp hopen).1⟩, hstage⟩
  | start hmode hcount =>
    have htts : (State.takeAll s.exu.jobs.length s).startRun.tts = s.tts := by
      rw [State.startRun_tts, (State.takeAll_builds _ s).tts]
    rw [State.tableInService, htts]
    exact ⟨fun _ => Nat.pos_of_ne_zero hcount, hpending, fun _ => nofun⟩
  | stop =>
    obtain ⟨-, -, -, -, hccu, htts, -, hmdc⟩ := s.stopRun_blocks
    rw [State.tableInService, State.mode, hccu, htts, hmdc]
    exact ⟨fun hrun => absurd rfl hrun, fun hswap => ⟨(hpending hswap).1, rfl⟩, fun hne => absurd rfl hne⟩
  | _ => exact ⟨hactive, hpending, hstage⟩

/-! ### Every step -/

theorem tableInService_kept : Kept State.tableInService where
  pending _ _ h := h
  trx _ _ h := h
  cpt _ _ h := h
  powerOn _ _ := ⟨fun hrun => absurd rfl hrun, nofun, fun hne => absurd rfl hne⟩
  softReset _ _ := ⟨fun hrun => absurd rfl hrun, nofun, fun hne => absurd rfl hne⟩
  completeTick _ hstage h := State.completeTick_tableInService hstage h
  endPriming _ hstage h := State.endPriming_tableInService hstage h
  ppsEdge _ h := tableInService_keptByEpochs.ppsEdge h
  idle _ _ _ h := h
  startRound _ _ h := State.startRound_tableInService h
  sampleEpoch s n _ h := tableInService_keptByEpochs.issueIndex (s := s.elapse n) h
  acquiringTimeout _ _ _ h := h
  rollover s n _ h := tableInService_keptByEpochs.rollover (s := s.elapse n) h
  enterHoldover s n _ h := tableInService_keptByEpochs.enterHoldover (s := s.elapse n) h
  expireHoldover s n _ h := tableInService_keptByEpochs.expireHoldover (s := s.elapse n) h
  passStart s _ h := by unfold State.startPass; split <;> exact h
  passEnd s n _ _ _ h := State.endPass_tableInService (s := s.elapse n) h
  readGrant _ _ _ h := State.serveIdle_tableInService (s := State.withTts _ _) h
  copySlice s n _ h := by
    refine State.serveIdle_tableInService
      (State.tableInService_of_serves (s := s.elapse n) h (State.withTts_serves _ _) ?_)
    exact TableStore.copySlice_inService (t := (s.elapse n).tts) (State.tableInService_iff.mp h).1
  excerptTake s _ h := by unfold State.take; split <;> exact h
  gapTimeout _ _ _ h := h
  request r body _ _ hm hb h := (r.apply_requested body hm hb).tableInService h

/-- Settles O30: every operation that a step is made of keeps it. -/
theorem tableInServiceIsNeverEmpty : Obligations.TableInServiceIsNeverEmpty := fun _ _ hs hstep =>
  tableInService_kept.step hs hstep

end Sys2Proof.Machine

/-! PROOFS. Every ring and both banks stay in canonical form (notes/assumptions/21.md): the conditioner's storage, the
store's, and every step. -/

namespace Sys2Proof.Machine

/-! ### The conditioner -/

/-- The conditioner's rings in canonical form. -/
def Conditioner.ringsWf (c : Conditioner) : Prop :=
  (∀ k : Fin 48, c.channels[k].ringsWf) ∧ Memory.wf Label.cleared c.labelRing

theorem Channel.applyEnable_ringsWf {c : Channel} (h : c.ringsWf) : c.applyEnable.ringsWf := by
  rwa [Channel.ringsWf, Channel.applyEnable_rawRing, Channel.applyEnable_cfRing]

theorem Channel.handover_ringsWf {c : Channel} (h : c.ringsWf) (epoch : Nat) (first : Bool)
    (x : Option (Int × Bool)) : (c.handover epoch first x).ringsWf := by
  rw [Channel.ringsWf, Channel.handover_rawRing, Channel.handover_cfRing]
  exact ⟨Memory.wf_write h.1 _ _, h.2⟩

theorem Channel.completeTick_ringsWf {c : Channel} (h : c.ringsWf) (t d sShift lShift : Nat) :
    (c.completeTick t d sShift lShift).ringsWf := by
  unfold Channel.completeTick
  split
  · exact ⟨h.1, Memory.wf_write h.2 _ _⟩
  · exact ⟨h.1, Memory.wf_write h.2 _ _⟩

/-- A change of every channel that keeps its rings in form. -/
theorem Conditioner.eachChannel_ringsWf {c : Conditioner} {f : Fin 48 → Channel → Channel} (h : c.ringsWf)
    (hf : ∀ k (ch : Channel), ch.ringsWf → (f k ch).ringsWf) : (c.eachChannel f).ringsWf := by
  refine ⟨fun k => ?_, ?_⟩
  · rw [Conditioner.eachChannel_channel]
    exact hf k _ (h.1 k)
  · rw [Conditioner.eachChannel_labelRing]
    exact h.2

theorem Conditioner.handover_ringsWf {c : Conditioner} (h : c.ringsWf) (m : Mode)
    (samples : Fin 48 → Option (Int × Bool)) (l : Label) : (c.handover m samples l).ringsWf := by
  have hunnumbered (hu : m = .standby ∨ c.openEpoch = none) : (c.handover m samples l).ringsWf := by
    obtain ⟨-, -, -, -, hlabels, hchannels⟩ := Conditioner.handover_unnumbered hu samples l
    refine ⟨fun k => ?_, hlabels ▸ h.2⟩
    rw [hchannels k]
    exact Channel.applyEnable_ringsWf (h.1 k)
  by_cases hm : m = .standby
  · exact hunnumbered (.inl hm)
  · cases ho : c.openEpoch with
    | none => exact hunnumbered (.inr ho)
    | some epoch =>
      obtain ⟨hchannels, hlabels⟩ := Conditioner.eachChannel_ringsWf h fun k _ hk =>
        Channel.handover_ringsWf hk epoch (epoch % c.dec = 0) (samples k)
      rw [Conditioner.handover_numbered hm ho]
      exact ⟨hchannels, by simpa only [Conditioner.eachChannel_labelRing] using hlabels⟩

theorem Conditioner.completeTick_ringsWf {c : Conditioner} (h : c.ringsWf) : c.completeTick.ringsWf := by
  obtain ⟨hchannels, -⟩ := Conditioner.eachChannel_ringsWf h fun _ _ hk =>
    Channel.completeTick_ringsWf hk c.tickCount c.dec c.staShift c.ltaShift
  exact ⟨hchannels, Memory.wf_write h.2 _ _⟩

/-- A run cleared leaves every ring empty. -/
theorem Conditioner.clearRun_ringsWf (c : Conditioner) {f : Channel → Channel}
    (hf : ∀ ch, (f ch).rawRing = [] ∧ (f ch).cfRing = []) : (c.clearRun f).ringsWf := by
  refine ⟨fun k => ?_, Memory.wf_empty⟩
  have hk : (c.clearRun f).channels[k] = f c.channels[k] := Conditioner.eachChannel_channel c _ k
  rw [hk, Channel.ringsWf, (hf _).1, (hf _).2]
  exact ⟨Memory.wf_empty, Memory.wf_empty⟩

/-- One channel replaced by one with the same rings. -/
theorem Conditioner.setChannel_ringsWf {c : Conditioner} (h : c.ringsWf) (k : Fin 48) {ch : Channel}
    (hraw : ch.rawRing = c.channels[k].rawRing) (hcf : ch.cfRing = c.channels[k].cfRing) :
    ({ c with channels := c.channels.set k ch } : Conditioner).ringsWf := by
  refine ⟨fun j => ?_, h.2⟩
  by_cases hj : k = j
  · subst hj
    have hset : (c.channels.set k ch)[k] = ch := Vector.getElem_set_self _
    rw [hset, Channel.ringsWf, hraw, hcf]
    exact h.1 k
  · have hset : (c.channels.set k ch)[j] = c.channels[j] := Vector.getElem_set_ne _ _ (Fin.val_ne_of_ne hj)
    rw [hset]
    exact h.1 j

/-! ### The store -/

/-- Both banks in canonical form. -/
def TableStore.banksWf (t : TableStore) : Prop := t.bankA.storageWf ∧ t.bankB.storageWf

theorem TableStore.banksWf.bank {t : TableStore} (h : t.banksWf) (w : BankId) : (t.bank w).storageWf := by
  cases w with
  | a => exact h.1
  | b => exact h.2

theorem TableStore.setShadow_banksWf {t : TableStore} (h : t.banksWf) {b : Bank} (hb : b.storageWf) :
    (t.setShadow b).banksWf := by
  unfold TableStore.setShadow TableStore.setBank
  split
  · exact ⟨hb, h.2⟩
  · exact ⟨h.1, hb⟩

theorem copyNode_storageWf {dst : Bank} (h : dst.storageWf) (src : Bank) (n : Nat) :
    (copyNode src dst n).storageWf :=
  Bank.setRegion_storageWf (foldl_keeps (P := Bank.storageWf)
    (fun _ k hb => Bank.setDelay_storageWf hb n k (src.delay n k)) _ dst h) n _

theorem copyNodes_storageWf {dst : Bank} (h : dst.storageWf) (src : Bank) (first n : Nat) :
    (copyNodes src first n dst).storageWf :=
  foldl_keeps (P := Bank.storageWf) (fun _ i hb => copyNode_storageWf hb src (first + i)) _ dst h

theorem TableStore.copySlice_banksWf {t : TableStore} (h : t.banksWf) : t.copySlice.banksWf := by
  unfold TableStore.copySlice
  split
  next => exact h
  next j _ =>
    have hcopied := copyNodes_storageWf (h.bank t.active.other) t.activeBank j.copied j.slice
    dsimp only
    split
    · exact TableStore.setShadow_banksWf h hcopied
    · exact TableStore.setShadow_banksWf h hcopied

/-! ### The part -/

theorem State.storageWf_iff {s : State} : s.storageWf ↔ s.ccu.ringsWf ∧ s.tts.banksWf := and_assoc.symm

/-- Where the conditioner stays, the store is to be looked at alone. -/
theorem State.storageWf_of_serves {s t : State} (h : s.storageWf) (ht : Serves s t) (htts : t.tts.banksWf) :
    t.storageWf := by
  rw [State.storageWf_iff, ht.ccu]
  exact ⟨(State.storageWf_iff.mp h).1, htts⟩

theorem State.storageWf_of_builds {s t : State} (h : s.storageWf) (ht : Builds s t) : t.storageWf := by
  rwa [State.storageWf_iff, ht.ccu, ht.tts, ← State.storageWf_iff]

theorem State.swap_storageWf {s : State} (h : s.storageWf) : s.swap.storageWf := by
  refine State.storageWf_of_serves h s.swap_serves ?_
  rw [State.swap_tts]
  exact (State.storageWf_iff.mp h).2

theorem State.startRound_storageWf {s : State} (h : s.storageWf) : s.startRound.storageWf :=
  State.startRound_keeps (P := State.storageWf) h (fun _ => State.swap_storageWf) fun _ _ hu => hu

theorem State.serveIdle_storageWf {s : State} (h : s.storageWf) : s.serveIdle.storageWf :=
  State.serveIdle_keeps (P := State.storageWf) h fun _ => State.startRound_storageWf

theorem State.endPass_storageWf {s : State} (h : s.storageWf) : s.endPass.storageWf := by
  unfold State.endPass
  split
  · exact h
  · refine State.startRound_storageWf (State.storageWf_of_serves h (s.finishPass_serves _) ?_)
    rw [State.finishPass_tts]
    exact (State.storageWf_iff.mp h).2

theorem State.handover_storageWf {s : State} (h : s.storageWf) : s.handover.storageWf := by
  obtain ⟨hrings, hbanks⟩ := State.storageWf_iff.mp h
  exact State.storageWf_iff.mpr ⟨Conditioner.handover_ringsWf hrings _ _ _, hbanks⟩

theorem storageWf_keptByEpochs : KeptByEpochs State.storageWf where
  timebase _ _ h := h
  handover _ h := State.handover_storageWf h
  refill _ h := h

theorem State.completeTick_storageWf {s : State} (h : s.storageWf) : s.completeTick.storageWf := by
  obtain ⟨hrings, hbanks⟩ := State.storageWf_iff.mp h
  replace hrings := Conditioner.completeTick_ringsWf hrings
  unfold State.completeTick
  generalize s.ccu.completeTick = c at hrings ⊢
  dsimp only
  split
  all_goals exact State.storageWf_iff.mpr ⟨hrings, hbanks⟩

theorem Conditioner.start_ringsWf (c : Conditioner) : c.start.ringsWf :=
  c.clearRun_ringsWf fun _ => ⟨rfl, rfl⟩

theorem Conditioner.softReset_ringsWf (c : Conditioner) : c.softReset.ringsWf :=
  c.clearRun_ringsWf fun _ => ⟨rfl, rfl⟩

@[simp] theorem State.startRun_ccu (s : State) : s.startRun.ccu = s.ccu.start := by
  simp only [State.startRun]

theorem Requested.storageWf {s t : State} (h : Requested s t) (hs : s.storageWf) : t.storageWf := by
  obtain ⟨hrings, hbanks⟩ := State.storageWf_iff.mp hs
  cases h with
  | channel k c hraw hcf =>
    exact State.storageWf_iff.mpr ⟨Conditioner.setChannel_ringsWf hrings k hraw hcf, hbanks⟩
  | shadow b p _ hwf =>
    have hshadow := TableStore.setShadow_banksWf hbanks (hwf (hbanks.bank s.tts.active.other))
    exact State.storageWf_iff.mpr ⟨hrings, hshadow⟩
  | read => exact State.serveIdle_storageWf (s := s.withTts _) hs
  | copy => exact State.serveIdle_storageWf (s := s.withTts _) hs
  | swapNow => exact State.swap_storageWf hs
  | swapPending => exact State.serveIdle_storageWf (s := s.withTts _) hs
  | start =>
    rw [State.storageWf_iff, State.startRun_ccu, State.startRun_tts, (State.takeAll_builds _ s).tts]
    exact ⟨Conditioner.start_ringsWf _, hbanks⟩
  | stop =>
    obtain ⟨-, -, -, -, hccu, htts, -, -⟩ := s.stopRun_blocks
    rw [State.storageWf_iff, hccu, htts]
    exact ⟨hrings, hbanks⟩
  | _ => exact hs

/-! ### Every step -/

theorem State.powerOn_storageWf (rate1 rate0 : Bool) : (State.powerOn rate1 rate0).storageWf := by
  have hbank : Bank.powerOn.storageWf := ⟨Memory.wf_empty, Memory.wf_empty⟩
  refine State.storageWf_iff.mpr ⟨⟨fun k => ?_, Memory.wf_empty⟩, hbank, hbank⟩
  have hk : (State.powerOn rate1 rate0).ccu.channels[k] = Channel.powerOn := Vector.getElem_replicate k.isLt
  rw [hk]
  exact ⟨Memory.wf_empty, Memory.wf_empty⟩

theorem storageWf_kept : Kept State.storageWf where
  pending _ _ h := h
  trx _ _ h := h
  cpt _ _ h := h
  powerOn := State.powerOn_storageWf
  softReset s h := State.storageWf_iff.mpr ⟨s.ccu.softReset_ringsWf, (State.storageWf_iff.mp h).2⟩
  completeTick _ _ h := State.completeTick_storageWf h
  endPriming _ _ h := h
  ppsEdge _ h := storageWf_keptByEpochs.ppsEdge h
  idle _ _ _ h := h
  startRound _ _ h := State.startRound_storageWf h
  sampleEpoch s n _ h := storageWf_keptByEpochs.issueIndex (s := s.elapse n) h
  acquiringTimeout _ _ _ h := h
  rollover s n _ h := storageWf_keptByEpochs.rollover (s := s.elapse n) h
  enterHoldover s n _ h := storageWf_keptByEpochs.enterHoldover (s := s.elapse n) h
  expireHoldover s n _ h := storageWf_keptByEpochs.expireHoldover (s := s.elapse n) h
  passStart s _ h := by unfold State.startPass; split <;> exact h
  passEnd s n _ _ _ h := State.endPass_storageWf (s := s.elapse n) h
  readGrant _ _ _ h := State.serveIdle_storageWf (s := State.withTts _ _) h
  copySlice s n _ h := by
    refine State.serveIdle_storageWf
      (State.storageWf_of_serves (s := s.elapse n) h (State.withTts_serves _ _) ?_)
    exact TableStore.copySlice_banksWf (t := (s.elapse n).tts) (State.storageWf_iff.mp h).2
  excerptTake s _ h := State.storageWf_of_builds h s.take_builds
  gapTimeout _ _ _ h := h
  request r body _ _ hm hb h := (r.apply_requested body hm hb).storageWf h

/-- Settles O60: every operation that a step is made of keeps it. -/
theorem storageStaysCanonical : Obligations.StorageStaysCanonical := fun _ _ hs hstep =>
  storageWf_kept.step hs hstep

end Sys2Proof.Machine

/-! PROOFS. The origin queue is a run of consecutive origins in step with the tick count (R85, R86, R161): the
invariant apart from the timebase, what the epoch event, the engine and the requests make of it, and every step. -/

namespace Sys2Proof.Machine

/-! ### The invariant apart from the timebase -/

/-- The run's tick count, countdown and origin queue agree, and what is left of an epoch event belongs to this
cycle. -/
def State.InStep (s : State) : Prop :=
  s.stk.origins.length ≤ 4 ∧ consecutive s.stk.origins
    ∧ (∀ o, s.stk.origins.getLast? = some o → o + 241 = s.ccu.tickCount)
    ∧ (s.mode ≠ .listening → s.stk.origins = [])
    ∧ (s.mode = .listening → 256 ≤ s.ccu.tickCount)
    ∧ (s.mode = .priming → s.ccu.tickCount + s.mdc.countdown = primingCount s.ccu.ltaShift)
    ∧ (s.ccu.stage = .primingEnd → s.mode = .priming ∧ s.mdc.countdown = 0)
    ∧ (s.mode = .priming → s.mdc.countdown = 0 → s.ccu.stage = .primingEnd)
    ∧ s.stageOfThisCycle

theorem State.runInOrder_iff {s : State} : s.runInOrder ↔ s.InStep ∧ s.tbu.inBounds := by
  unfold State.runInOrder State.InStep
  tauto

section
variable {s t : State}

/-- What the invariant reads: the origins, three values of the conditioner, the mode controller, and whether the
epoch is of this cycle where something of its event is left. -/
theorem State.InStep.of_eq (h : s.InStep) (horigins : t.stk.origins = s.stk.origins)
    (htick : t.ccu.tickCount = s.ccu.tickCount) (hlta : t.ccu.ltaShift = s.ccu.ltaShift)
    (hstage : t.ccu.stage = s.ccu.stage) (hmdc : t.mdc = s.mdc)
    (hopened : s.ccu.stage ≠ .none → s.tbu.justOpened = true → t.tbu.justOpened = true) : t.InStep := by
  have hmode : t.mode = s.mode := congrArg ModeController.mode hmdc
  obtain ⟨hlength, hrun, hlast, hempty, hticks, hpriming, hend, hzero, hthis⟩ := h
  unfold State.InStep State.stageOfThisCycle
  rw [horigins, htick, hlta, hstage, hmode, hmdc]
  exact ⟨hlength, hrun, hlast, hempty, hticks, hpriming, hend, hzero,
    fun hne => ⟨(hthis hne).1, hopened hne (hthis hne).2⟩⟩

theorem State.InStep.thisCycle (h : s.InStep) : s.stageOfThisCycle := by
  obtain ⟨-, -, -, -, -, -, -, -, hthis⟩ := h
  exact hthis

theorem State.InStep.noneWaits (h : s.InStep) (hm : s.mode ≠ .listening) : s.stk.origins = [] := by
  obtain ⟨-, -, -, hempty, -⟩ := h
  exact hempty hm

theorem State.InStep.of_serves (h : s.InStep) (ht : Serves s t) (horigins : t.stk.origins = s.stk.origins) :
    t.InStep :=
  h.of_eq horigins (by rw [ht.ccu]) (by rw [ht.ccu]) (by rw [ht.ccu]) ht.mdc (by rw [ht.tbu]; exact fun _ h => h)

theorem State.InStep.withTbu (h : s.InStep) {b : Timebase} (hb : b.justOpened = s.tbu.justOpened) :
    (s.withTbu b).InStep :=
  h.of_eq rfl rfl rfl rfl rfl fun _ hopened => hb.trans hopened

/-! ### The passing of time -/

/-- Time passes only where nothing of an epoch event is left. -/
theorem State.stage_of_quietFor {n : Nat} (hquiet : s.quietFor n = true) : n = 0 ∨ s.ccu.stage = .none := by
  cases hstage : s.ccu.stage with
  | none => exact .inr rfl
  | completion =>
    have hdue : s.dueIn .tickCompletion = some 0 := if_pos (decide_eq_true hstage)
    exact .inl (Nat.le_zero.mp (State.le_of_quietFor hquiet (by simp [ownEvents]) hdue))
  | primingEnd =>
    have hdue : s.dueIn .primingEnd = some 0 := if_pos (decide_eq_true hstage)
    exact .inl (Nat.le_zero.mp (State.le_of_quietFor hquiet (by simp [ownEvents]) hdue))

theorem State.InStep.elapse (h : s.InStep) {n : Nat} (hquiet : s.quietFor n = true) : (s.elapse n).InStep := by
  refine h.of_eq rfl rfl rfl rfl rfl fun hne hopened => ?_
  obtain rfl := (State.stage_of_quietFor hquiet).resolve_right hne
  exact hopened

/-! ### The epoch event -/

theorem Conditioner.eachChannel_ltaShift (c : Conditioner) (f : Fin 48 → Channel → Channel) :
    (c.eachChannel f).ltaShift = c.ltaShift := by
  simp only [Conditioner.eachChannel]

/-- A handover counts no tick, and may leave a completion in a run. -/
theorem Conditioner.handover_run (c : Conditioner) (m : Mode) (samples : Fin 48 → Option (Int × Bool))
    (l : Label) :
    (c.handover m samples l).tickCount = c.tickCount ∧ (c.handover m samples l).ltaShift = c.ltaShift
      ∧ ((c.handover m samples l).stage = c.stage
        ∨ (c.handover m samples l).stage = .completion ∧ m ≠ .standby) := by
  by_cases hm : m = .standby
  · subst hm
    simp only [Conditioner.handover, Conditioner.eachChannel_tickCount, Conditioner.eachChannel_ltaShift,
      Conditioner.eachChannel_stage, true_or, and_self]
  · cases ho : c.openEpoch with
    | none =>
      have heq : c.handover m samples l
          = { c.eachChannel (fun _ ch => ch.applyEnable) with openEpoch := some 0 } := by
        unfold Conditioner.handover
        cases m with
        | standby => exact absurd rfl hm
        | priming => simp only [ho]
        | listening => simp only [ho]
      rw [heq]
      simp only [Conditioner.eachChannel_tickCount, Conditioner.eachChannel_ltaShift,
        Conditioner.eachChannel_stage, true_or, and_self]
    | some epoch =>
      rw [Conditioner.handover_numbered hm ho]
      simp only [Conditioner.eachChannel_tickCount, Conditioner.eachChannel_ltaShift, true_and]
      split
      · exact .inr ⟨rfl, hm⟩
      · exact .inl rfl

/-- An epoch handed over with nothing left of an event before it, and one opened in its place. -/
theorem State.InStep.handover (h : s.InStep) (hnone : s.ccu.stage = .none) (hccu : t.ccu = s.handover.ccu)
    (horigins : t.stk.origins = s.stk.origins) (hmdc : t.mdc = s.mdc) (hopened : t.tbu.justOpened = true) :
    t.InStep := by
  obtain ⟨htick, hlta, hstage⟩ := s.ccu.handover_run s.mode s.sampleOf s.tbu.label
  rw [← State.handover_ccu, ← hccu] at htick hlta hstage
  obtain ⟨hlength, hrun, hlast, hempty, hticks, hpriming, -, hzero, -⟩ := h
  have hmode : t.mode = s.mode := congrArg ModeController.mode hmdc
  have hnotEnd : t.ccu.stage ≠ .primingEnd := by
    rcases hstage with hsame | ⟨hcompletion, -⟩
    · rw [hsame, hnone]; nofun
    · rw [hcompletion]; nofun
  unfold State.InStep State.stageOfThisCycle
  rw [horigins, htick, hlta, hmode, hmdc]
  refine ⟨hlength, hrun, hlast, hempty, hticks, hpriming, fun hend => absurd hend hnotEnd, ?zero, ?this⟩
  case zero => exact fun hp hc => absurd ((hzero hp hc).symm.trans hnone) nofun
  case this =>
    refine fun hne => ⟨?_, hopened⟩
    rcases hstage with hsame | ⟨-, hrunning⟩
    · exact absurd (hsame.trans hnone) hne
    · exact hrunning

theorem Timebase.mark_justOpened (step : Bool) (b : Timebase) : (b.mark step).justOpened = true := by
  simp [Timebase.justOpened, Timebase.mark, Timebase.beginSecond, Timebase.issueAt]

theorem State.InStep.mark (h : s.InStep) (step : Bool) : (State.mark step s).InStep := by
  have hopened : (State.mark step s).tbu.justOpened = true := by
    rw [State.mark_tbu]
    exact Timebase.mark_justOpened step _
  unfold State.mark at hopened ⊢
  dsimp only at hopened ⊢
  split
  next => exact h.of_eq rfl rfl rfl rfl rfl fun _ _ => Timebase.mark_justOpened step _
  next hnot =>
    have hnone : s.ccu.stage = .none := by
      by_contra hne
      exact hnot (h.thisCycle hne).2
    exact h.handover hnone rfl rfl rfl (Timebase.mark_justOpened step _)

/-- What a PPS edge is: a change of the timebase, followed by a mark or not, that opens no epoch itself. -/
theorem State.ppsEdge_cases (s : State) : ∃ b : Timebase,
    (s.ppsEdge = s.withTbu b ∨ ∃ step, s.ppsEdge = State.mark step (s.withTbu b))
      ∧ b.justOpened = s.tbu.justOpened := by
  unfold State.ppsEdge
  dsimp only
  split
  next => exact ⟨_, .inl rfl, rfl⟩
  next =>
    split
    · exact ⟨_, .inl rfl, rfl⟩
    · split
      · exact ⟨_, .inl rfl, rfl⟩
      · exact ⟨_, .inr ⟨true, rfl⟩, rfl⟩
  next =>
    split
    · exact ⟨_, .inl rfl, rfl⟩
    · exact ⟨_, .inr ⟨false, rfl⟩, rfl⟩
  next =>
    split
    · exact ⟨_, .inl rfl, rfl⟩
    · exact ⟨_, .inr ⟨true, rfl⟩, rfl⟩

theorem State.InStep.ppsEdge (h : s.InStep) : s.ppsEdge.InStep := by
  obtain ⟨b, heq | ⟨step, heq⟩, hb⟩ := s.ppsEdge_cases
  · rw [heq]
    exact h.withTbu hb
  · rw [heq]
    exact (h.withTbu hb).mark step

/-- Two indices of a second lie apart. -/
theorem Timebase.issueAt_lt_succ {b : Timebase} (h : b.inBounds) (i : Nat) : b.issueAt i < b.issueAt (i + 1) := by
  obtain ⟨-, ⟨⟨hlow, -⟩, hq, -⟩, -⟩ := Timebase.inBounds_iff.mp h
  have hfs : fsOf b.fsInForce ≤ 4000 := by
    generalize b.fsInForce = code
    revert code
    decide
  have hlow' : 4000 ≤ b.cInUse := le_trans (by decide) hlow
  have hpos : 0 < b.q := by
    rw [hq]
    exact Nat.div_pos (hfs.trans hlow') (fsOf_pos _)
  have hmul : (i + 1) * b.q = i * b.q + b.q := Nat.succ_mul i b.q
  unfold Timebase.issueAt
  omega

theorem State.InStep.issueIndex {n : Nat} (h : s.InStep) (hbounds : s.tbu.inBounds)
    (hcomes : s.comesIn .sampleEpoch n) : (s.elapse n).issueIndex.InStep := by
  obtain ⟨hdue, hquiet, -⟩ := hcomes
  simp only [State.dueIn] at hdue
  split at hdue
  case isFalse => cases hdue
  case isTrue hlt =>
    cases hdue
    have hapart := Timebase.issueAt_lt_succ hbounds s.tbu.sampleIndex
    obtain ⟨-, ⟨-, -, -, -, hbefore, -⟩, -⟩ := Timebase.inBounds_iff.mp hbounds
    have hposition := hbefore hlt
    have hnone : s.ccu.stage = .none := by
      by_contra hne
      have hopened := (h.thisCycle hne).2
      have hat : s.tbu.position = s.tbu.issueAt s.tbu.sampleIndex := beq_iff_eq.mp hopened
      have hzero := (State.stage_of_quietFor hquiet).resolve_right hne
      omega
    refine (h.elapse hquiet).handover hnone rfl rfl rfl (beq_iff_eq.mpr ?_)
    show s.tbu.position + (s.tbu.issueAt (s.tbu.sampleIndex + 1) - s.tbu.position)
      = s.tbu.issueAt (s.tbu.sampleIndex + 1)
    omega

/-! ### Appending an origin -/

theorem consecutive_tail {l : List Nat} (h : consecutive l) : consecutive l.tail := by
  match l, h with
  | [], _ => exact trivial
  | [_], _ => exact trivial
  | _ :: _ :: _, h => exact h.2

theorem consecutive_append {l : List Nat} {o : Nat} (h : consecutive l)
    (hlast : ∀ p, l.getLast? = some p → o = p + 1) : consecutive (l ++ [o]) := by
  induction l with
  | nil => exact trivial
  | cons a l ih =>
    cases l with
    | nil => exact ⟨hlast a rfl, trivial⟩
    | cons b l => exact ⟨h.1, ih h.2 fun p hp => hlast p (by rw [List.getLast?_cons_cons]; exact hp)⟩

/-- The queue after an append: at most 4 consecutive origins that end with the new one. -/
theorem Engine.append_origins {e : Engine} {o : Nat} (hlength : e.origins.length ≤ 4)
    (hrun : consecutive e.origins) (hlast : ∀ p, e.origins.getLast? = some p → o = p + 1) :
    (e.append o).origins.length ≤ 4 ∧ consecutive (e.append o).origins
      ∧ (e.append o).origins.getLast? = some o := by
  unfold Engine.append
  split
  next hroom => exact ⟨by simpa using hroom, consecutive_append hrun hlast, by simp⟩
  next hfull =>
    refine ⟨by simp; omega, consecutive_append (consecutive_tail hrun) fun p hp => hlast p ?_, by simp⟩
    have htail : e.origins.tail ≠ [] := by rintro hnil; simp [hnil] at hp
    obtain ⟨a, l, hl⟩ := List.exists_cons_of_ne_nil htail
    obtain ⟨b, m, hm⟩ := List.exists_cons_of_ne_nil (l := e.origins) (by rintro hnil; simp [hnil] at hl)
    rw [hm] at hl hp ⊢
    simp only [List.tail_cons] at hl hp
    subst hl
    rwa [List.getLast?_cons_cons]

/-- A tick completes: the countdown falls, or the next origin follows the last one waiting. -/
theorem State.InStep.completeTick (h : s.InStep) (hstage : s.ccu.stage = .completion) :
    s.completeTick.InStep := by
  obtain ⟨hlength, hrun, hlast, hempty, hticks, hpriming, -, hzero, hthis⟩ := h
  obtain ⟨hmode, hopened⟩ := hthis (by rw [hstage]; nofun)
  have htick : s.ccu.completeTick.tickCount = s.ccu.tickCount + 1 := rfl
  have hlta : s.ccu.completeTick.ltaShift = s.ccu.ltaShift := by
    simp only [Conditioner.completeTick, Conditioner.eachChannel_ltaShift]
  have hnone : s.ccu.completeTick.stage = .none := rfl
  unfold State.completeTick
  generalize s.ccu.completeTick = c at htick hlta hnone ⊢
  dsimp only
  split
  next hstandby => exact absurd hstandby hmode
  next hp =>
    have hcount : s.mdc.countdown ≠ 0 := fun hc => absurd ((hzero hp hc).symm.trans hstage) nofun
    have hleft := hpriming hp
    have hidle : s.stk.origins = [] := hempty (by rw [State.mode, hp]; nofun)
    unfold State.InStep State.stageOfThisCycle
    simp only [State.mode, hp, hidle, htick, hlta]
    refine ⟨Nat.zero_le _, trivial, nofun, fun _ => trivial, nofun, fun _ => by omega, fun hend => ⟨trivial, ?_⟩,
      fun _ hc => if_pos hc, fun _ => ⟨nofun, hopened⟩⟩
    by_contra hne
    rw [if_neg hne] at hend
    cases hend
  next hl =>
    have h256 := hticks hl
    obtain ⟨hlength', hrun', hlast'⟩ := Engine.append_origins (e := s.stk) (o := s.ccu.tickCount - 240)
      hlength hrun fun p hp => by have := hlast p hp; omega
    unfold State.InStep State.stageOfThisCycle State.appendOrigin
    simp only [State.mode, hl, htick, hnone]
    refine ⟨hlength', hrun', fun o ho => ?_, nofun, fun _ => by omega, nofun, nofun, nofun, nofun⟩
    obtain rfl := Option.some.inj (hlast'.symm.trans ho)
    omega

theorem State.InStep.endPriming (h : s.InStep) (hstage : s.ccu.stage = .primingEnd) : s.endPriming.InStep := by
  obtain ⟨-, -, -, hempty, -, hpriming, hend, -, -⟩ := h
  obtain ⟨hmode, hcount⟩ := hend hstage
  have hidle : s.stk.origins = [] := hempty (by rw [hmode]; nofun)
  have hticks : s.ccu.tickCount = primingCount s.ccu.ltaShift := by
    have := hpriming hmode
    rwa [hcount] at this
  have h256 : 256 ≤ s.ccu.tickCount := hticks ▸ Nat.le_max_left _ _
  have horigins : s.endPriming.stk.origins = [s.ccu.tickCount - 241] := by
    simp [State.endPriming, State.appendOrigin, Engine.append, hidle, Nat.sub_sub, Config.originLag]
  unfold State.InStep
  rw [horigins]
  refine ⟨by simp, trivial, fun o ho => ?_, fun hne => absurd rfl hne, fun _ => h256, nofun, nofun, nofun,
    fun hne => absurd rfl hne⟩
  simp only [List.getLast?_singleton, Option.some.injEq] at ho
  show o + 241 = s.ccu.tickCount
  omega

/-! ### The engine and the arbiter -/

theorem State.swap_origins (s : State) : s.swap.stk.origins = s.stk.origins := by
  rw [State.swap_eq, State.withStk_stk, Engine.swapNotice, (State.closeAll_builds _ .table).stk, State.withTts_stk]

theorem State.startRound_origins (s : State) : s.startRound.stk.origins = s.stk.origins :=
  State.startRound_keeps (P := fun u => u.stk.origins = s.stk.origins) rfl (fun _ _ => s.swap_origins)
    fun _ _ hu => hu

theorem State.serveIdle_origins (s : State) : s.serveIdle.stk.origins = s.stk.origins :=
  State.serveIdle_keeps (P := fun u => u.stk.origins = s.stk.origins) rfl fun _ _ => s.startRound_origins

theorem State.endPass_origins (s : State) : s.endPass.stk.origins = s.stk.origins := by
  unfold State.endPass
  split
  · rfl
  · obtain ⟨_, _, hfinish, horigins, -⟩ := s.finishPass_eq ‹PassContext›
    rw [State.startRound_origins, hfinish, State.withStk_stk, horigins]

theorem State.InStep.serveIdle (h : s.InStep) : s.serveIdle.InStep :=
  h.of_serves s.serveIdle_serves s.serveIdle_origins

/-- The head origin leaves the queue; the others stay a run with the same end. -/
theorem State.InStep.startPass (h : s.InStep) : s.startPass.InStep := by
  unfold State.startPass
  split
  next => exact h
  next o rest horigins =>
    obtain ⟨hlength, hrun, hlast, hempty, hticks, hpriming, hend, hzero, hthis⟩ := h
    rw [horigins] at hlength hrun hlast hempty
    refine ⟨Nat.le_of_succ_le hlength, consecutive_tail hrun, fun p hp => hlast p ?_, fun hm => ?_, hticks, hpriming,
      hend, hzero, hthis⟩
    · obtain ⟨a, l, rfl⟩ := List.exists_cons_of_ne_nil (l := rest) (by rintro rfl; cases hp)
      rwa [List.getLast?_cons_cons]
    · exact absurd (hempty hm) nofun

/-! ### Modes, resets and requests -/

/-- Outside a run nothing waits and nothing of an epoch event is left. -/
theorem State.inStep_of_standby (hmode : s.mode = .standby) (horigins : s.stk.origins = [])
    (hstage : s.ccu.stage = .none) : s.InStep := by
  unfold State.InStep State.stageOfThisCycle
  rw [hmode, horigins, hstage]
  exact ⟨by decide, trivial, nofun, fun _ => rfl, nofun, nofun, nofun, nofun, fun hne => absurd rfl hne⟩

theorem State.startRun_inStep (s : State) : s.startRun.InStep := by
  have hcount : primingCount s.ccu.ltaShift ≠ 0 := by
    have : 256 ≤ primingCount s.ccu.ltaShift := Nat.le_max_left _ _
    omega
  have horigins : s.startRun.stk.origins = [] := by simp only [State.startRun, Engine.clearRun]
  have hmdc : s.startRun.mdc = { mode := .priming, countdown := primingCount s.ccu.ltaShift } := by
    simp only [State.startRun]
  have htick : s.startRun.ccu.tickCount = 0 := by
    rw [State.startRun_ccu, Conditioner.start, Conditioner.clearRun]
  have hlta : s.startRun.ccu.ltaShift = s.ccu.ltaShift := by
    simp only [State.startRun_ccu, Conditioner.start, Conditioner.clearRun, Conditioner.eachChannel_ltaShift]
  have hstage : s.startRun.ccu.stage = .none := by
    rw [State.startRun_ccu, Conditioner.start, Conditioner.clearRun]
  unfold State.InStep State.stageOfThisCycle State.mode
  rw [horigins, hmdc, htick, hlta, hstage]
  exact ⟨by decide, trivial, nofun, fun _ => rfl, nofun, fun _ => Nat.zero_add _, nofun,
    fun _ hzero => absurd hzero hcount, fun hne => absurd rfl hne⟩

theorem Requested.inStep (h : Requested s t) (hs : s.InStep) : t.InStep := by
  cases h with
  | acquisition dec rate sta lta hmode =>
    have hstage : s.ccu.stage = .none := by
      by_contra hne
      exact (hs.thisCycle hne).1 hmode
    exact State.inStep_of_standby hmode (hs.noneWaits (by rw [hmode]; nofun)) hstage
  | read => exact State.InStep.serveIdle (s := s.withTts _) hs
  | copy => exact State.InStep.serveIdle (s := s.withTts _) hs
  | swapNow => exact hs.of_serves s.swap_serves s.swap_origins
  | swapPending => exact State.InStep.serveIdle (s := s.withTts _) hs
  | monitor e horigins => exact hs.of_eq horigins rfl rfl rfl rfl fun _ h => h
  | start => exact State.startRun_inStep _
  | stop =>
    obtain ⟨-, -, -, -, hccu, -, hstk, hmdc⟩ := s.stopRun_blocks
    exact State.inStep_of_standby (by rw [State.mode, hmdc]) (by rw [hstk]; rfl) (by rw [hccu])
  | _ => exact hs

end

/-! ### Every step -/

theorem runInOrder_kept : Kept State.runInOrder := by
  have hbounds := inBoundsAndOrder_kept False
  have both {s : State} (hstep : s.InStep) (h : s.tbu.InBoundsAndOrder False) : s.runInOrder :=
    State.runInOrder_iff.mpr ⟨hstep, h.1⟩
  have order {s : State} (h : s.runInOrder) : s.InStep := (State.runInOrder_iff.mp h).1
  have bounds {s : State} (h : s.runInOrder) : s.tbu.InBoundsAndOrder False :=
    ⟨(State.runInOrder_iff.mp h).2, nofun⟩
  exact {
    pending := fun _ _ h => h
    trx := fun _ _ h => h
    cpt := fun _ _ h => h
    powerOn := fun rate1 rate0 => both (State.inStep_of_standby rfl rfl rfl) (hbounds.powerOn rate1 rate0)
    softReset := fun s h => both (State.inStep_of_standby rfl rfl rfl) (hbounds.softReset s (bounds h))
    completeTick := fun s hstage h => both ((order h).completeTick hstage) (hbounds.completeTick s hstage (bounds h))
    endPriming := fun s hstage h => both ((order h).endPriming hstage) (hbounds.endPriming s hstage (bounds h))
    ppsEdge := fun s h => both (order h).ppsEdge (hbounds.ppsEdge s (bounds h))
    idle := fun s hround hdue h =>
      both ((order h).elapse (State.quietFor_one hdue)) (hbounds.idle s hround hdue (bounds h))
    startRound := fun s hround h =>
      both ((order h).of_serves s.startRound_serves s.startRound_origins) (hbounds.startRound s hround (bounds h))
    sampleEpoch := fun s n hcomes h =>
      both ((order h).issueIndex (bounds h).1 hcomes) (hbounds.sampleEpoch s n hcomes (bounds h))
    acquiringTimeout := fun s n hcomes h =>
      both (((order h).elapse hcomes.2.1).withTbu rfl) (hbounds.acquiringTimeout s n hcomes (bounds h))
    rollover := fun s n hcomes h =>
      both ((((order h).elapse hcomes.2.1).withTbu (by rfl)).mark false) (hbounds.rollover s n hcomes (bounds h))
    enterHoldover := fun s n hcomes h =>
      both ((((order h).elapse hcomes.2.1).withTbu (by rfl)).mark true) (hbounds.enterHoldover s n hcomes (bounds h))
    expireHoldover := fun s n hcomes h => by
      refine both ?_ (hbounds.expireHoldover s n hcomes (bounds h))
      unfold State.expireHoldover
      split
      · exact (((order h).elapse hcomes.2.1).withTbu (by rfl)).mark false
      · exact (((order h).elapse hcomes.2.1).withTbu (by rfl)).mark false
    passStart := fun s hdue h => both (order h).startPass (hbounds.passStart s hdue (bounds h))
    passEnd := fun s n e hcomes hend h =>
      both (((order h).elapse hcomes.2.1).of_serves (State.endPass_serves _) (State.endPass_origins _))
        (hbounds.passEnd s n e hcomes hend (bounds h))
    readGrant := fun s n hcomes h =>
      both (((order h).elapse hcomes.2.1).of_serves (State.grantRead_serves _) (State.serveIdle_origins _))
        (hbounds.readGrant s n hcomes (bounds h))
    copySlice := fun s n hcomes h =>
      both (((order h).elapse hcomes.2.1).of_serves (State.endSlice_serves _) (State.serveIdle_origins _))
        (hbounds.copySlice s n hcomes (bounds h))
    excerptTake := fun s hready h =>
      both ((order h).of_serves s.take_builds.serves (congrArg Engine.origins s.take_builds.stk))
        (hbounds.excerptTake s hready (bounds h))
    gapTimeout := fun s n hcomes h => both ((order h).elapse hcomes.2.1) (hbounds.gapTimeout s n hcomes (bounds h))
    request := fun r body s hl hm hb h =>
      both ((r.apply_requested body hm hb).inStep (order h)) (hbounds.request r body s hl hm hb (bounds h)) }

/-- Settles O37: every operation that a step is made of keeps the queue in step, and O20's lemmas keep the timebase
in its bounds. -/
theorem originQueueIsARun : Obligations.OriginQueueIsARun := fun _ _ hs hstep => runInOrder_kept.step hs hstep

end Sys2Proof.Machine

/-! PROOFS. Once, what a command can do to the control port, and that none touches the commands that wait: the steps
of the port alone, and every command as a run of them. -/

namespace Sys2Proof.Machine

/-! ### The steps of the port -/

/-- What a command can make of the port, step by step. -/
inductive PortStep : ControlPort → ControlPort → Prop
  | refl (c : ControlPort) : PortStep c c
  | trans {a b c : ControlPort} : PortStep a b → PortStep b c → PortStep a c
  | powerOn (c : ControlPort) (rate1 rate0 : Bool) : PortStep c (.powerOn rate1 rate0)
  | softReset (c : ControlPort) : PortStep c c.softReset
  | elapse (c : ControlPort) (n : Nat) : PortStep c (c.elapse n)
  /-- the receiver and the link counters -/
  | link (c : ControlPort) (r : Receiver) (k : LinkCounters) : PortStep c { c with receiver := r, counters := k }
  | resetPending (c : ControlPort) : PortStep c { c with resetPending := true }
  /-- a valid frame that finds a place in the backlog (R174) -/
  | waits (c : ControlPort) (f : Frame) (hroom : c.backlog < 3) :
      PortStep c { c with waiting := c.waiting ++ [f] }
  /-- a waiting frame executed, which may stay the executing request (R175) -/
  | executes (c : ControlPort) (f : Frame) (rest : List Frame) (x : Option Executing)
      (hfree : c.executing = none) (hwaiting : c.waiting = f :: rest) :
      PortStep c { c with waiting := rest, executing := x }
  /-- a reply placed (R177) -/
  | places (c : ControlPort) (r : Reply) (hroom : c.transmit.length < 4) :
      PortStep c { c with transmit := c.transmit ++ [r] }
  /-- the executing request at its end, or left waiting for a place -/
  | ends (c : ControlPort) (x : Option Executing) (hbusy : c.executing ≠ none) :
      PortStep c { c with executing := x }
  /-- the head reply sent -/
  | sent (c : ControlPort) (r : Reply) (rest : List Reply) (hqueue : c.transmit = r :: rest) :
      PortStep c { c with transmit := rest, sentFor := 0 }
  /-- the head reply sent, its place taken by the reply that waits -/
  | replaced (c : ControlPort) (r w : Reply) (rest : List Reply) (hqueue : c.transmit = r :: rest) :
      PortStep c { c with transmit := rest ++ [w], sentFor := 0, executing := none }

/-- The commands that wait stay, and the port takes steps of its own. -/
def Ported (s t : State) : Prop := t.pending = s.pending ∧ PortStep s.cpt t.cpt

namespace Ported

variable {s t u : State}

theorem refl (s : State) : Ported s s := ⟨rfl, .refl _⟩

theorem trans (h : Ported s t) (k : Ported t u) : Ported s u := ⟨k.1.trans h.1, h.2.trans k.2⟩

theorem of_eq (hpending : t.pending = s.pending) (hcpt : t.cpt = s.cpt) : Ported s t :=
  ⟨hpending, hcpt ▸ .refl _⟩

theorem cpt {c : ControlPort} (h : PortStep s.cpt c) : Ported s (s.withCpt c) := ⟨rfl, h⟩

theorem of_serves (h : Serves s t) : Ported s t := of_eq h.pending h.cpt

theorem of_marks (h : Marks s t) : Ported s t := by
  obtain ⟨_, _, _, _, rfl⟩ := h
  exact refl s

end Ported

/-! ### The epoch event and the requests -/

theorem State.completeTick_ported (s : State) : Ported s s.completeTick := by
  obtain ⟨_, _, _, h⟩ := s.completeTick_eq
  rw [h]
  exact .refl s

theorem State.endPriming_ported (s : State) : Ported s s.endPriming := by
  obtain ⟨_, _, _, h⟩ := s.endPriming_eq
  rw [h]
  exact .refl s

theorem State.acquiringTimeout_ported (s : State) : Ported s s.acquiringTimeout := .refl s

theorem State.issueIndex_ported (s : State) : Ported s s.issueIndex := by
  obtain ⟨_, _, _, h⟩ := s.issueIndex_eq
  rw [h]
  exact .refl s

/-- What is left of an epoch event reaches neither the commands that wait nor the port. -/
theorem State.settleEpoch_eq (s : State) :
    s.settleEpoch.pending = s.pending ∧ s.settleEpoch.cpt = s.cpt := by
  have hcomplete : s.completeTick.pending = s.pending ∧ s.completeTick.cpt = s.cpt := by
    obtain ⟨_, _, _, h⟩ := s.completeTick_eq
    rw [h]
    exact ⟨rfl, rfl⟩
  have hpriming (u : State) : u.endPriming.pending = u.pending ∧ u.endPriming.cpt = u.cpt := by
    obtain ⟨_, _, _, h⟩ := u.endPriming_eq
    rw [h]
    exact ⟨rfl, rfl⟩
  have hfirst : (if s.ccu.stage = .completion then s.completeTick else s).pending = s.pending
      ∧ (if s.ccu.stage = .completion then s.completeTick else s).cpt = s.cpt := by
    split
    · exact hcomplete
    · exact ⟨rfl, rfl⟩
  unfold State.settleEpoch
  dsimp only
  generalize (if s.ccu.stage = .completion then s.completeTick else s) = u at hfirst ⊢
  split
  · exact ⟨(hpriming u).1.trans hfirst.1, (hpriming u).2.trans hfirst.2⟩
  · exact hfirst

/-- Of the port a request's own work reaches reset pending alone. -/
theorem Requested.port {s t : State} (h : Requested s t) :
    t.pending = s.pending ∧ (t.cpt = s.cpt ∨ t.cpt = { s.cpt with resetPending := true }) := by
  have hserves {u : State} (hu : Serves s u) :
      u.pending = s.pending ∧ (u.cpt = s.cpt ∨ u.cpt = { s.cpt with resetPending := true }) :=
    ⟨hu.pending, .inl hu.cpt⟩
  cases h with
  | resetPending => exact ⟨rfl, .inr rfl⟩
  | read => exact hserves ((s.withTts_serves _).trans (State.serveIdle_serves _))
  | copy => exact hserves ((s.withTts_serves _).trans (State.serveIdle_serves _))
  | swapNow => exact hserves s.swap_serves
  | swapPending => exact hserves ((s.withTts_serves _).trans (State.serveIdle_serves _))
  | start =>
    have htake := State.takeAll_builds s.exu.jobs.length s
    have hpending (u : State) : u.startRun.pending = u.pending := by simp only [State.startRun]
    exact ⟨(hpending _).trans htake.pending, .inl ((State.startRun_cpt _).trans htake.cpt)⟩
  | stop =>
    obtain ⟨hpending, -, -, hcpt, -⟩ := s.stopRun_blocks
    exact ⟨hpending, .inl hcpt⟩
  | _ => exact ⟨rfl, .inl rfl⟩

theorem answerFrame_port (f : Frame) (s : State) :
    (answerFrame f s).1.pending = s.pending
      ∧ ((answerFrame f s).1.cpt = s.cpt ∨ (answerFrame f s).1.cpt = { s.cpt with resetPending := true }) := by
  unfold answerFrame
  split
  next => exact ⟨rfl, .inl rfl⟩
  next r _ =>
    split
    · exact ⟨rfl, .inl rfl⟩
    · split
      · exact ⟨rfl, .inl rfl⟩
      · split
        · exact ⟨rfl, .inl rfl⟩
        next hmode hlock =>
          exact (r.apply_requested f.body (by simpa using hmode) (by simpa using hlock)).port

/-! ### Frames executed -/

/-- A frame executed: its reply placed, or the request left as the executing one. -/
theorem State.executeFrame_port (s : State) (f : Frame) : ∃ b : Bool, (s.executeFrame f).pending = s.pending
    ∧ ((s.cpt.transmit.length < 4
        ∧ ∃ r, (s.executeFrame f).cpt
          = { s.cpt with resetPending := b, transmit := s.cpt.transmit ++ [r] })
      ∨ ∃ x, (s.executeFrame f).cpt = { s.cpt with resetPending := b, executing := some x })
    ∧ (b = s.cpt.resetPending ∨ b = true) := by
  obtain ⟨hsettled, hport⟩ := s.settleEpoch_eq
  obtain ⟨hpending, hcpt⟩ := answerFrame_port f s.settleEpoch
  have hb : ∃ b : Bool, (answerFrame f s.settleEpoch).1.cpt = { s.cpt with resetPending := b }
      ∧ (b = s.cpt.resetPending ∨ b = true) := by
    rw [hport] at hcpt
    rcases hcpt with h | h
    · exact ⟨_, h, .inl rfl⟩
    · exact ⟨true, h, .inr rfl⟩
  obtain ⟨b, hb, hbit⟩ := hb
  refine ⟨b, ?_⟩
  rw [hsettled] at hpending
  unfold State.executeFrame
  split
  next u body heq =>
    rw [heq] at hb hpending
    replace hb : u.cpt = { s.cpt with resetPending := b } := hb
    unfold State.placeReply
    split
    next hroom =>
      refine ⟨hpending, .inl ⟨by rwa [hb] at hroom, f.reply body, ?_⟩, hbit⟩
      simp only [hb]
    next =>
      refine ⟨hpending, .inr ⟨.replyWaiting (f.reply body), ?_⟩, hbit⟩
      simp only [hb]
  next u heq =>
    rw [heq] at hb hpending
    replace hb : u.cpt = { s.cpt with resetPending := b } := hb
    refine ⟨hpending, .inr ⟨.tableRead f.tag, ?_⟩, hbit⟩
    simp only [hb]

/-- The oldest waiting frame executed. -/
theorem State.executeFrame_ported {s : State} {f : Frame} {rest : List Frame} (hfree : s.cpt.executing = none)
    (hwaiting : s.cpt.waiting = f :: rest) :
    Ported s (State.executeFrame { s with cpt := { s.cpt with waiting := rest } } f) := by
  obtain ⟨b, hpending, hcpt, hbit⟩ :=
    State.executeFrame_port { s with cpt := { s.cpt with waiting := rest } } f
  have hreset (c : ControlPort) (hc : c.resetPending = s.cpt.resetPending) :
      PortStep c { c with resetPending := b } := by
    rcases hbit with h | h
    · have hsame : b = c.resetPending := h.trans hc.symm
      rw [hsame]
      exact .refl c
    · rw [h]
      exact .resetPending c
  refine ⟨hpending, ?_⟩
  rcases hcpt with ⟨hroom, r, hcpt⟩ | ⟨x, hcpt⟩
  · rw [hcpt]
    have hexecuted : PortStep s.cpt { s.cpt with waiting := rest } := by
      have := PortStep.executes s.cpt f rest none hfree hwaiting
      rwa [← hfree] at this
    exact (hexecuted.trans (hreset _ rfl)).trans (.places _ r hroom)
  · rw [hcpt]
    exact (PortStep.executes s.cpt f rest (some x) hfree hwaiting).trans (hreset _ rfl)

theorem State.runBacklog_ported (n : Nat) : ∀ s : State, Ported s (State.runBacklog n s) := by
  induction n with
  | zero => exact .refl
  | succ n ih =>
    intro s
    simp only [State.runBacklog]
    split
    next => exact .refl s
    next hidle =>
      split
      next => exact .refl s
      next f rest hwaiting =>
        have hfree : s.cpt.executing = none := by
          simp only [Bool.or_eq_true, not_or, Option.isSome_iff_ne_none, ne_eq, not_not] at hidle
          exact hidle.1
        exact (State.executeFrame_ported hfree hwaiting).trans (ih _)

theorem State.runWaiting_ported (s : State) : Ported s s.runWaiting := State.runBacklog_ported _ s

/-! ### The receiver and the transmitter -/

theorem State.count_ported (s : State) (k : LinkCounters → LinkCounters) : Ported s (s.count k) :=
  ⟨rfl, .link s.cpt s.cpt.receiver (k s.cpt.counters)⟩

theorem State.receive_ported (s : State) (r : Receiver) : Ported s (s.receive r) :=
  ⟨rfl, .link s.cpt r s.cpt.counters⟩

theorem State.refuseBusy_ported (s : State) (f : Frame) : Ported s (s.refuseBusy f) := by
  unfold State.refuseBusy
  split
  next hroom =>
    exact ⟨rfl, (PortStep.places s.cpt (f.reply [statusBusy]) hroom).trans (.link _ s.cpt.receiver _)⟩
  next => exact s.count_ported _

theorem State.acceptFrame_ported (s : State) (f : Frame) : Ported s (s.acceptFrame f) := by
  unfold State.acceptFrame
  split
  · exact s.count_ported _
  · dsimp only
    split
    next hroom =>
      exact ((s.count_ported _).trans (.cpt (.waits _ f hroom))).trans (State.runWaiting_ported _)
    next => exact (s.count_ported _).trans (State.refuseBusy_ported _ f)

theorem State.hostSends_ported (s : State) (kind tag : Byte) (body : List Byte) :
    Ported s (s.hostSends kind tag body) := by
  unfold State.hostSends
  split
  · exact s.count_ported _
  · exact s.acceptFrame_ported _

theorem State.completeFrame_ported (s : State) (f : FrameInProgress) (b : Byte) :
    Ported s (s.completeFrame f b) := by
  unfold State.completeFrame
  dsimp only
  split
  · exact (s.receive_ported _).trans (State.acceptFrame_ported _ _)
  · exact (s.receive_ported _).trans (State.count_ported _ _)

theorem State.goodByte_ported (s : State) (b : Byte) : Ported s (s.goodByte b) := by
  unfold State.goodByte
  split
  next f _ =>
    unfold State.takeFrameByte
    dsimp only
    split
    · exact s.receive_ported _
    · split
      · exact s.receive_ported _
      · split
        · exact s.receive_ported _
        · split
          · split
            · exact (s.receive_ported _).trans (State.count_ported _ _)
            · exact s.receive_ported _
          · split
            · exact s.receive_ported _
            · split
              · exact s.receive_ported _
              · exact s.completeFrame_ported f b
  next =>
    split
    · exact s.receive_ported _
    · exact s.count_ported _

theorem State.replySent_ported (s : State) : Ported s s.replySent := by
  unfold State.replySent
  split
  next => exact .refl s
  next r rest hqueue =>
    split
    · exact ⟨rfl, .softReset _⟩
    · dsimp only
      split
      next w _ => exact (Ported.cpt (.replaced s.cpt r w rest hqueue)).trans (State.runWaiting_ported _)
      next => exact ⟨rfl, .sent s.cpt r rest hqueue⟩
      next => exact (Ported.cpt (.sent s.cpt r rest hqueue)).trans (State.runWaiting_ported _)

theorem State.endReadGrant_ported (s : State) : Ported s s.endReadGrant := by
  have hgrant := s.grantRead_serves
  unfold State.endReadGrant
  split
  next r tag _ hbusy =>
    dsimp only
    refine ((Ported.of_serves hgrant).trans ⟨?_, ?_⟩).trans (State.runWaiting_ported _)
    · unfold State.placeReply
      split <;> rfl
    · have hexecuting : s.grantRead.cpt.executing ≠ none := by
        rw [hgrant.cpt, hbusy]
        nofun
      unfold State.placeReply
      split
      next hroom => exact (PortStep.ends _ none hexecuting).trans (.places _ _ hroom)
      next => exact .ends _ (some _) hexecuting
  next => exact .of_serves hgrant

/-! ### Every command -/

theorem State.elapse_ported (s : State) (n : Nat) : Ported s (s.elapse n) := ⟨rfl, .elapse _ n⟩

theorem State.comeAbout_ported {take : State → State} (h : ∀ u, Ported u (take u)) (s : State) (e : Instr) :
    Ported s (s.comeAbout e take) := by
  have hidle := Ported.of_serves s.serveIdle_serves
  rcases s.comeAbout_cases e take with heq | ⟨n, -, heq⟩
  · rw [heq]
    exact hidle
  · rw [heq]
    exact (hidle.trans (State.elapse_ported _ n)).trans (h _)

/-- Every command answers a next state, leaves the waiting commands alone, and takes the port by its steps. -/
theorem exec_ported (c : Instr) (s : State) : ∃ t, exec c s = .next t ∧ Ported s t := by
  cases c with
  | powerOnReset r1 r0 => exact ⟨_, rfl, rfl, .powerOn _ r1 r0⟩
  | sampleEpoch => exact ⟨_, rfl, State.comeAbout_ported State.issueIndex_ported s _⟩
  | tickCompletion => exact ⟨_, rfl, State.comeAbout_ported State.completeTick_ported s _⟩
  | primingEnd => exact ⟨_, rfl, State.comeAbout_ported State.endPriming_ported s _⟩
  | ppsEdge => exact ⟨_, rfl, .of_marks s.ppsEdge_marks⟩
  | acquiringTimeout => exact ⟨_, rfl, State.comeAbout_ported State.acquiringTimeout_ported s _⟩
  | freeRunRollover => exact ⟨_, rfl, State.comeAbout_ported (fun u => .of_marks u.rollover_marks) s _⟩
  | holdoverEntry => exact ⟨_, rfl, State.comeAbout_ported (fun u => .of_marks u.enterHoldover_marks) s _⟩
  | holdoverExpiry => exact ⟨_, rfl, State.comeAbout_ported (fun u => .of_marks u.expireHoldover_marks) s _⟩
  | passStart => exact ⟨_, rfl, State.comeAbout_ported (fun u => .of_serves u.startPass_serves) s _⟩
  | passEnd => exact ⟨_, rfl, State.comeAbout_ported (fun u => .of_serves u.endPass_serves) s _⟩
  | deadCountEnd r => exact ⟨_, rfl, State.comeAbout_ported (fun u => .of_serves u.endPass_serves) s _⟩
  | copySlice => exact ⟨_, rfl, State.comeAbout_ported (fun u => .of_serves u.endSlice_serves) s _⟩
  | excerptTake => exact ⟨_, rfl, State.comeAbout_ported (fun u => .of_serves u.take_builds.serves) s _⟩
  | readGrant => exact ⟨_, rfl, State.comeAbout_ported State.endReadGrant_ported s _⟩
  | gapTimeout =>
    exact ⟨_, rfl, State.comeAbout_ported
      (fun u => (u.receive_ported _).trans (State.count_ported _ _)) s _⟩
  | rxByte b high =>
    refine ⟨_, rfl, ?_⟩
    split
    · exact s.goodByte_ported b
    · exact (s.receive_ported _).trans (State.count_ported _ _)
  | replySent => exact ⟨_, rfl, s.replySent_ported⟩
  | trunkByte => exact ⟨_, rfl, rfl, .refl _⟩
  | trunkBit => exact ⟨_, rfl, rfl, .refl _⟩
  | pause => exact ⟨_, rfl, rfl, .refl _⟩
  | breakWithinByte => exact ⟨_, rfl, rfl, .refl _⟩
  | moveToWaiting => exact ⟨_, rfl, rfl, .refl _⟩
  | _ => exact ⟨_, rfl, s.hostSends_ported _ _ _⟩

/-! ### The part's own events -/

/-- The row of an event of the part's own lets it come about. -/
theorem exec_ownEvent {c : Instr} (h : c ∈ ownEvents ∨ ∃ r, c = .deadCountEnd r) :
    ∃ take, ∀ s, exec c s = .next (s.comeAbout c take) := by
  rcases h with h | ⟨r, rfl⟩
  · simp only [ownEvents, List.mem_cons, List.not_mem_nil, or_false] at h
    rcases h with rfl | rfl | rfl | rfl | rfl | rfl | rfl | rfl | rfl | rfl | rfl | rfl | rfl
    all_goals exact ⟨_, fun _ => rfl⟩
  · exact ⟨_, fun _ => rfl⟩

/-- Settles O3, from the run of port steps that every command is, and from what an event of the part's own can do. -/
theorem everyCommandCompletesAndKeepsTheQueue : Obligations.EveryCommandCompletesAndKeepsTheQueue := by
  intro c s
  obtain ⟨t, ht, hpending, -⟩ := exec_ported c s
  refine ⟨⟨t, ht, hpending⟩, fun hown => ?_⟩
  obtain ⟨take, htake⟩ := exec_ownEvent hown
  refine ⟨fun hround hnever => ?_, fun hround => ⟨?_, s.startRound_roundDue⟩⟩
  · rw [htake]
    rcases s.comeAbout_cases c take with heq | ⟨n, hn, -⟩
    · rw [heq, State.serveIdle_of_not_due hround]
    · rw [State.serveIdle_of_not_due hround] at hn
      exact absurd hn (hnever n)
  · rw [htake, htake, State.comeAbout_of_roundDue hround]

end Sys2Proof.Machine

/-! PROOFS. Fitting (R147 to R149, R151): the segments included up to a limit are the longest beginning that fits it,
and the obligation. -/

namespace Sys2Proof.Machine

@[simp] theorem totalSize_nil (w : Width) : totalSize w [] = 0 := rfl

@[simp] theorem totalSize_cons (w : Width) (g : Segment) (gs : List Segment) :
    totalSize w (g :: gs) = g.size w + totalSize w gs := by simp [totalSize]

/-- Segments included in order are the longest beginning that fits (R148). -/
theorem includeUpTo_keepsUpTo (w : Width) (gs : List Segment) :
    ∀ limit, keepsUpTo w limit gs (includeUpTo w limit gs) := by
  induction gs with
  | nil => exact fun limit => ⟨0, Nat.le_refl 0, rfl, Nat.zero_le _, fun h => absurd h (Nat.lt_irrefl 0)⟩
  | cons g gs ih =>
    intro limit
    unfold includeUpTo
    split
    next hfits =>
      obtain ⟨k, hk, hkept, htotal, hnext⟩ := ih (limit - g.size w)
      refine ⟨k + 1, by simpa using hk, by rw [List.take_succ_cons, ← hkept], ?_, fun hlt => ?_⟩
      · rw [totalSize_cons]
        omega
      · have := hnext (by simpa using hlt)
        rw [List.take_succ_cons, totalSize_cons]
        omega
    next hover =>
      refine ⟨0, Nat.zero_le _, rfl, Nat.zero_le _, fun _ => ?_⟩
      simpa using hover

theorem keepsUpTo.length_le {w : Width} {limit : Nat} {gs kept : List Segment}
    (h : keepsUpTo w limit gs kept) : kept.length ≤ gs.length := by
  obtain ⟨k, hk, rfl, -⟩ := h
  exact List.length_take_le' _ _

theorem keepsUpTo.totalSize_le {w : Width} {limit : Nat} {gs kept : List Segment}
    (h : keepsUpTo w limit gs kept) : totalSize w kept ≤ limit := by
  obtain ⟨_, _, _, htotal, _⟩ := h
  exact htotal

/-- COARSEN at 16 bits: everything fits (R149). -/
theorem fitSegments_coarsen_of_fits {limit : Nat} {gs : List Segment} (h : totalSize .bits16 gs ≤ limit) :
    fitSegments .coarsen limit gs = { width := .bits16, written := gs, omitted := 0 } := if_pos h

/-- COARSEN at 8 bits, where 16 do not hold everything (R149). -/
theorem fitSegments_coarsen_of_over {limit : Nat} {gs : List Segment} (h : limit < totalSize .bits16 gs) :
    fitSegments .coarsen limit gs
      = { width := .bits8, written := includeUpTo .bits8 limit gs,
          omitted := gs.length - (includeUpTo .bits8 limit gs).length } := if_neg h.not_ge

/-- Every segment is written or omitted. -/
theorem fitSegments_length (mode : ExcerptMode) (limit : Nat) (gs : List Segment) :
    (fitSegments mode limit gs).written.length + (fitSegments mode limit gs).omitted = gs.length := by
  have hincluded (w : Width) :
      (includeUpTo w limit gs).length + (gs.length - (includeUpTo w limit gs).length) = gs.length :=
    Nat.add_sub_cancel' (includeUpTo_keepsUpTo w gs limit).length_le
  cases mode with
  | off => exact Nat.zero_add _
  | full => exact hincluded .bits16
  | trim => exact hincluded .bits16
  | coarsen =>
    rcases Nat.lt_or_ge limit (totalSize .bits16 gs) with hover | hfits
    · rw [fitSegments_coarsen_of_over hover]
      exact hincluded .bits8
    · rw [fitSegments_coarsen_of_fits hfits]
      rfl

/-- What is written fits the limit, in every mode. -/
theorem fitSegments_totalSize_le (mode : ExcerptMode) (limit : Nat) (gs : List Segment) :
    totalSize (fitSegments mode limit gs).width (fitSegments mode limit gs).written ≤ limit := by
  cases mode with
  | off => exact Nat.zero_le _
  | full => exact (includeUpTo_keepsUpTo .bits16 gs limit).totalSize_le
  | trim => exact (includeUpTo_keepsUpTo .bits16 gs limit).totalSize_le
  | coarsen =>
    rcases Nat.lt_or_ge limit (totalSize .bits16 gs) with hover | hfits
    · rw [fitSegments_coarsen_of_over hover]
      exact (includeUpTo_keepsUpTo .bits8 gs limit).totalSize_le
    · rw [fitSegments_coarsen_of_fits hfits]
      exact hfits

/-- Settles O47, mode by mode. -/
theorem fittingKeepsTheLongestBeginning : Obligations.FittingKeepsTheLongestBeginning := by
  rintro limit gs mode f rfl
  refine ⟨fitSegments_length mode limit gs, ?_, ?_, ?_, ?_⟩
  · rintro (rfl | rfl)
    · exact ⟨rfl, includeUpTo_keepsUpTo .bits16 gs limit⟩
    · exact ⟨rfl, includeUpTo_keepsUpTo .bits16 gs limit⟩
  · rintro rfl hfits
    rw [fitSegments_coarsen_of_fits hfits]
    exact ⟨rfl, rfl⟩
  · rintro rfl hover
    rw [fitSegments_coarsen_of_over hover]
    exact ⟨rfl, includeUpTo_keepsUpTo .bits8 gs limit⟩
  · rintro rfl
    exact ⟨rfl, rfl⟩

end Sys2Proof.Machine

/-! PROOFS. EXCERPT_TAKE (R137, R138, R145, R150, R153): the sizes of what is written, when a take is due, what it
leaves, and the obligation. -/

namespace Sys2Proof.Machine

/-! ### Sizes -/

@[simp] theorem Label.bytes_length (l : Label) : l.bytes.length = 7 := by simp [Label.bytes]

/-- Encoded samples of `n` bytes each. -/
theorem length_flatMap_const {α β : Type} {f : α → List β} {n : Nat} (l : List α) (h : ∀ a, (f a).length = n) :
    (l.flatMap f).length = n * l.length := by
  induction l with
  | nil => simp
  | cons a l ih => rw [List.flatMap_cons, List.length_append, ih, h, List.length_cons]; ring

/-- A segment takes as many bytes as its size says (R144, R194). -/
theorem Segment.bytes_length (w : Width) (g : Segment) : (g.bytes w).length = g.size w := by
  have hsamples : (g.samples.flatMap fun y =>
      leInt w.bytes (encodeSample w (shiftFor w g.peak) y.value)).length = w.bytes * g.samples.length :=
    length_flatMap_const g.samples fun _ => leInt_length _ _
  simp only [Segment.bytes, List.length_append, hsamples, le_length, leInt_length, List.length_cons,
    List.length_nil, Segment.size]

theorem flatMap_bytes_length (w : Width) (gs : List Segment) :
    (gs.flatMap (Segment.bytes w)).length = totalSize w gs := by
  induction gs with
  | nil => rfl
  | cons g gs ih => rw [List.flatMap_cons, List.length_append, ih, Segment.bytes_length, totalSize_cons]

/-- An excerpt is its 32-byte header and its segments (R145). -/
theorem Built.bytes_length (b : Built) (j : Job) (mode : ExcerptMode) :
    (b.bytes j mode).length = 32 + b.segmentSize := by
  simp only [Built.bytes, List.length_append, le_length, Label.bytes_length, List.length_cons, List.length_nil,
    flatMap_bytes_length, Built.segmentSize]

/-- The segments of an excerpt fit the limit of its take (R147). -/
theorem State.build_segmentSize_le (s : State) (j : Job) :
    (s.build j).segmentSize ≤ excerptLimit s.exu.mode s.rpq.freeSpace s.exu.allowanceLeft :=
  fitSegments_totalSize_le _ _ _

theorem excerptLimit_le_free (mode : ExcerptMode) (free left : Nat) : excerptLimit mode free left ≤ free - 32 := by
  cases mode with
  | off => exact Nat.zero_le _
  | full => exact Nat.le_refl _
  | trim => exact Nat.min_le_left _ _
  | coarsen => exact Nat.min_le_left _ _

theorem excerptLimit_le_left {mode : ExcerptMode} (h : mode = .trim ∨ mode = .coarsen) (free left : Nat) :
    excerptLimit mode free left ≤ left := by
  rcases h with rfl | rfl
  · exact Nat.min_le_right _ _
  · exact Nat.min_le_right _ _

/-- A new excerpt has room in the free space (R148). -/
theorem State.build_fits {s : State} (h : s.rpq.hasRoom = true) (j : Job) :
    s.rpq.bytesHeld + ((s.build j).bytes j s.exu.mode).length ≤ 65536 := by
  have hroom : 32 ≤ 65536 - s.rpq.bytesHeld := of_decide_eq_true h
  have hsize : (s.build j).segmentSize ≤ 65536 - s.rpq.bytesHeld - 32 :=
    (s.build_segmentSize_le j).trans (excerptLimit_le_free _ _ _)
  rw [Built.bytes_length]
  omega

/-! ### The segments among the cuts -/

theorem segmentsOf_length_le (cuts : List Cut) : (segmentsOf cuts).length ≤ cuts.length :=
  List.length_filterMap_le _ _

theorem insertSegment_perm (g : Segment) (gs : List Segment) : (insertSegment g gs).Perm (g :: gs) := by
  induction gs with
  | nil => exact .refl _
  | cons h gs ih =>
    unfold insertSegment
    split
    · exact .refl _
    · exact (ih.cons h).trans (.swap g h gs)

theorem orderSegments_perm (gs : List Segment) : (orderSegments gs).Perm gs := by
  induction gs with
  | nil => exact .refl _
  | cons g gs ih => exact (insertSegment_perm g _).trans (ih.cons g)

/-- Each channel of the job is written, missing or omitted. -/
theorem State.build_counts (s : State) (j : Job) :
    j.channels.length = (s.build j).fit.written.length + (s.build j).missing + (s.build j).fit.omitted := by
  have hcuts : (s.build j).cuts.length = j.channels.length := List.length_map _
  have hfit : (s.build j).fit.written.length + (s.build j).fit.omitted = (segmentsOf (s.build j).cuts).length :=
    (fitSegments_length _ _ _).trans (orderSegments_perm _).length_eq
  have hle := segmentsOf_length_le (s.build j).cuts
  unfold Built.missing
  omega

/-- Only COARSEN writes 8 bits (R149). -/
theorem fitSegments_width {mode : ExcerptMode} {limit : Nat} {gs : List Segment}
    (h : (fitSegments mode limit gs).width = .bits8) : mode = .coarsen := by
  cases mode with
  | coarsen => rfl
  | off => cases h
  | full => cases h
  | trim => cases h

/-! ### When a take is due -/

theorem foldl_max_le {α : Type} (f : α → Nat) (b : Nat) (l : List α) :
    ∀ a, l.foldl (fun m c => max m (f c)) a ≤ b ↔ a ≤ b ∧ ∀ c ∈ l, f c ≤ b := by
  induction l with
  | nil => simp
  | cons c l ih =>
    intro a
    rw [List.foldl_cons, ih]
    simp only [List.mem_cons, forall_eq_or_imp, max_le_iff, and_assoc]

/-- A job's last epoch is written where every window of its list has ended (R136). -/
theorem Job.lastEpoch_le_iff (j : Job) (e : Nat) :
    j.lastEpoch ≤ e ↔ ∀ c ∈ j.channels, c.arrival + j.post ≤ e + 1 := by
  unfold Job.lastEpoch
  rw [foldl_max_le]
  simp only [Nat.zero_le, true_and]
  exact forall₂_congr fun c _ => by omega

/-- The two conditions of R137. -/
theorem State.takeReady_of_conditions {s : State} {j : Job} {rest : List Job} (hjobs : s.exu.jobs = j :: rest)
    (hsamples : j.forced = true ∨ j.channels = [] ∨ ∃ e, s.ccu.newestEpoch = some e
      ∧ ∀ c ∈ j.channels, c.arrival + j.post ≤ e + 1)
    (hroom : s.rpq.hasRoom = true) : s.takeReady = true := by
  have hready : j.samplesReady s.ccu.newestEpoch = true := by
    unfold Job.samplesReady
    rcases hsamples with hforced | hempty | ⟨e, hnewest, hended⟩
    · rw [hforced]
      rfl
    · simp [hempty]
    · simp [hnewest, (j.lastEpoch_le_iff e).mpr hended]
  simp only [State.takeReady, hjobs, hready, hroom, Bool.and_self]

/-- The excerpt that a take of `j` writes. -/
def State.excerptOf (s : State) (j : Job) : Excerpt :=
  { event := j.event, origin := j.origin, label := j.label, bytes := (s.build j).bytes j s.exu.mode }

/-- What the take of the head job leaves (R138, R150, R153). -/
theorem State.take_of_cons {s : State} {j : Job} {rest : List Job} (hjobs : s.exu.jobs = j :: rest) :
    s.take = { s with
      exu := s.exu.afterTake (s.build j)
      rpq := { s.rpq with excerpts := s.rpq.excerpts ++ [s.excerptOf j] } } := by
  simp only [State.take, hjobs, State.excerptOf]

theorem countIf_eq (b : Bool) (n : Nat) : countIf b n = if b = true then min 4294967295 (n + 1) else n := by
  unfold countIf
  rw [satInc_eq_min]

/-! ### The obligation -/

/-- Settles O46: the take is due at once, and its sizes and counts are those of fitting. -/
theorem excerptTakeWritesOneExcerpt : Obligations.ExcerptTakeWritesOneExcerpt := by
  rintro s j rest b x hjobs hsamples hroom hround rfl rfl
  have hspace : s.rpq.hasRoom = true :=
    decide_eq_true (show 32 ≤ 65536 - s.rpq.bytesHeld by omega)
  have hdue : s.dueIn .excerptTake = some 0 :=
    if_pos (State.takeReady_of_conditions hjobs hsamples hspace)
  have htake : exec .excerptTake s = .next s.take :=
    congrArg Host.Outcome.next (State.comeAbout_of_due hdue hround State.take)
  refine ⟨?_, Built.bytes_length _ _ _, State.build_fits hspace j,
    fun hmode => (s.build_segmentSize_le j).trans (excerptLimit_le_left hmode _ _), s.build_counts j, ?_, ?_,
    fitSegments_width⟩
  · rw [htake, State.take_of_cons hjobs]
    simp only [State.excerptOf, ExcerptUnit.afterTake, hjobs, List.tail_cons, satInc_eq_min, countIf_eq]
  · simp only [State.build, decide_eq_true_eq, ne_eq, Nat.one_le_iff_ne_zero]
  · simp only [State.build, decide_eq_true_eq]

end Sys2Proof.Machine

/-! PROOFS. The queues stay within their sizes (R135, R146, R174, R177, R183, R185, R187): the three blocks that hold
queues, what each operation makes of them, and every step. -/

namespace Sys2Proof.Machine

/-! ### The three blocks apart -/

/-- The report queues within their sizes. -/
structure Reports.InCapacity (r : Reports) : Prop where
  summaries : r.summaries.length ≤ 64
  attn : r.attn = r.attnLevel
  held : r.bytesHeld ≤ 65536
  head : r.headInside = true
  sizes : ∀ e ∈ r.excerpts, 32 ≤ e.bytes.length
  threshold : 1 ≤ r.threshold ∧ r.threshold ≤ 64

/-- The job queue and the allowance within their limits. -/
def ExcerptUnit.InCapacity (u : ExcerptUnit) : Prop := u.jobs.length ≤ 4 ∧ u.allowanceLeft ≤ u.allowanceInForce

/-- The transmit queue and the backlog within their places. -/
def ControlPort.InCapacity (c : ControlPort) : Prop :=
  c.transmit.length ≤ 4 ∧ c.backlog ≤ 3 ∧ (c.transmit = [] → c.sentFor = 0)

/-- What the builder, the excerpt unit and the requests reach of the queues. -/
def State.ReportsFit (s : State) : Prop := s.rpq.InCapacity ∧ s.exu.InCapacity

theorem State.withinCapacity_iff {s : State} : s.withinCapacity ↔ s.ReportsFit ∧ s.cpt.InCapacity := by
  constructor
  · rintro ⟨hsummaries, hattn, hheld, hhead, hsizes, hthreshold, hjobs, hleft, hport⟩
    exact ⟨⟨⟨hsummaries, hattn, hheld, hhead, hsizes, hthreshold⟩, hjobs, hleft⟩, hport⟩
  · rintro ⟨⟨⟨hsummaries, hattn, hheld, hhead, hsizes, hthreshold⟩, hjobs, hleft⟩, hport⟩
    exact ⟨hsummaries, hattn, hheld, hhead, hsizes, hthreshold, hjobs, hleft, hport⟩

/-! ### The report queues -/

section
variable {r : Reports}

/-- A change of the summaries or the threshold, ATTN judged anew. -/
theorem Reports.InCapacity.judge {q : Reports} (h : r.InCapacity) (hsummaries : q.summaries.length ≤ 64)
    (hthreshold : 1 ≤ q.threshold ∧ q.threshold ≤ 64) (hexcerpts : q.excerpts = r.excerpts)
    (hoffset : q.headOffset = r.headOffset) : q.judge.InCapacity where
  summaries := hsummaries
  attn := rfl
  held := by
    show (q.excerpts.map fun e => e.bytes.length).sum - q.headOffset ≤ 65536
    rw [hexcerpts, hoffset]
    exact h.held
  head := by
    have hhead := h.head
    unfold Reports.headInside at hhead ⊢
    rwa [← hexcerpts, ← hoffset] at hhead
  sizes := by
    show ∀ e ∈ q.excerpts, 32 ≤ e.bytes.length
    rw [hexcerpts]
    exact h.sizes
  threshold := hthreshold

theorem Reports.InCapacity.append (h : r.InCapacity) (x : Summary) (hroom : r.summaries.length < 64) :
    (r.append x).InCapacity :=
  h.judge (q := { r with summaries := r.summaries ++ [x] }) (by rw [List.length_append]; exact hroom) h.threshold
    rfl rfl

theorem Reports.InCapacity.headInside_cons (h : r.InCapacity) {x : Excerpt} {rest : List Excerpt}
    (hqueue : r.excerpts = x :: rest) : r.headOffset < x.bytes.length := by
  have hhead := h.head
  simp only [Reports.headInside, hqueue] at hhead
  exact of_decide_eq_true hhead

/-- The head offset is within the bytes that the queue holds. -/
theorem Reports.InCapacity.headOffset_le (h : r.InCapacity) :
    r.headOffset ≤ (r.excerpts.map fun e => e.bytes.length).sum := by
  cases hqueue : r.excerpts with
  | nil =>
    have hhead := h.head
    simp only [Reports.headInside, hqueue] at hhead
    rw [beq_iff_eq.mp hhead]
    exact Nat.zero_le _
  | cons x rest =>
    have hinside := h.headInside_cons hqueue
    rw [List.map_cons, List.sum_cons]
    omega

/-- A whole excerpt written within the free space (R138). -/
theorem Reports.InCapacity.write (h : r.InCapacity) {x : Excerpt} (hlength : 32 ≤ x.bytes.length)
    (hfits : r.bytesHeld + x.bytes.length ≤ 65536) :
    ({ r with excerpts := r.excerpts ++ [x] } : Reports).InCapacity where
  summaries := h.summaries
  attn := h.attn
  held := by
    have hoffset := h.headOffset_le
    unfold Reports.bytesHeld at hfits ⊢
    simp only [List.map_append, List.sum_append, List.map_cons, List.map_nil, List.sum_cons, List.sum_nil]
    omega
  head := by
    cases hqueue : r.excerpts with
    | nil =>
      have hoffset := h.headOffset_le
      rw [hqueue, List.map_nil, List.sum_nil] at hoffset
      exact decide_eq_true (show r.headOffset < x.bytes.length by omega)
    | cons y rest => exact decide_eq_true (h.headInside_cons hqueue)
  sizes e he := by
    rcases List.mem_append.mp he with hold | hnew
    · exact h.sizes e hold
    · rwa [List.mem_singleton.mp hnew]
  threshold := h.threshold

/-- A chunk of the head excerpt fetched, the excerpt gone with its last (R186). -/
theorem Reports.InCapacity.afterChunk (h : r.InCapacity) {x : Excerpt} {rest : List Excerpt}
    (hqueue : r.excerpts = x :: rest) : (r.afterChunk (x.chunk r.headOffset).length).InCapacity := by
  have hinside := h.headInside_cons hqueue
  have hsizes := h.sizes
  have hheld := h.held
  have hchunk : r.headOffset + (x.chunk r.headOffset).length ≤ x.bytes.length := by
    simp only [Excerpt.chunk, List.length_take, List.length_drop]
    omega
  simp only [Reports.bytesHeld, hqueue, List.map_cons, List.sum_cons] at hheld
  rw [hqueue] at hsizes
  unfold Reports.afterChunk
  simp only [hqueue]
  split
  next hlast =>
    refine ⟨h.summaries, h.attn, ?_, ?_, fun e he => hsizes e (List.mem_cons_of_mem _ he), h.threshold⟩
    · show (rest.map fun e => e.bytes.length).sum - 0 ≤ 65536
      omega
    · cases rest with
      | nil => rfl
      | cons y rest =>
        have hy : 32 ≤ y.bytes.length := hsizes y (by simp)
        exact decide_eq_true (show 0 < y.bytes.length by omega)
  next hmore =>
    refine ⟨h.summaries, h.attn, ?_, ?_, hsizes, h.threshold⟩
    · simp only [Reports.bytesHeld, List.map_cons, List.sum_cons]
      omega
    · simp only [Reports.headInside]
      exact decide_eq_true (by omega)

theorem Reports.InCapacity.softReset (h : r.InCapacity) : r.softReset.InCapacity where
  summaries := Nat.zero_le _
  attn := rfl
  held := Nat.zero_le _
  head := rfl
  sizes := nofun
  threshold := h.threshold

end

/-! ### Declarations, takes and the walks -/

section
variable {s : State}

/-- A declaration goes to a queue of fewer than 64, its job to a queue of fewer than 4 (R128, R130). -/
theorem State.ReportsFit.declareEvent (h : s.ReportsFit) (r : Fin 16) (reason : CloseReason) (k : Candidate) :
    (s.declareEvent r reason k).ReportsFit := by
  obtain ⟨hreports, hjobs, hleft⟩ := h
  unfold State.declareEvent
  dsimp only
  split
  next hroom =>
    refine ⟨hreports.append _ (of_decide_eq_true hroom), ?_⟩
    show ExcerptUnit.InCapacity (if _ then _ else _)
    split
    next hqueued =>
      refine ⟨?_, hleft⟩
      have hfree : ¬ 4 ≤ s.exu.jobs.length := by
        intro hfull
        simp only [State.summaryFor, ExcerptUnit.statusFor, if_pos hfull] at hqueued
        split at hqueued
        · cases hqueued
        · split at hqueued <;> cases hqueued
      rw [List.length_append]
      exact Nat.succ_le_of_lt (Nat.lt_of_not_le hfree)
    next => exact ⟨hjobs, hleft⟩
  next => exact ⟨hreports, hjobs, hleft⟩

theorem State.ReportsFit.closeCandidate (h : s.ReportsFit) (r : Fin 16) (reason : CloseReason) (k : Candidate) :
    (s.closeCandidate r reason k).ReportsFit := h.declareEvent r reason k

theorem State.ReportsFit.closeAll (h : s.ReportsFit) (reason : CloseReason) : (s.closeAll reason).ReportsFit :=
  State.closeAll_keeps (fun _ r k _ hs => hs.closeCandidate r reason k) h

theorem State.ReportsFit.takePassResult (h : s.ReportsFit) (d : PassResult) : (s.takePassResult d).ReportsFit :=
  State.takePassResult_keeps (fun _ skipped d r hs => State.regionOrigin_keeps hs (fun _ _ => hs)
    (fun reason k _ => hs.closeCandidate r reason k) (fun _ _ => hs) skipped d) d h

theorem State.ReportsFit.swap (h : s.ReportsFit) : s.swap.ReportsFit := by
  rw [State.swap_eq, State.ReportsFit, State.withStk_rpq, State.withStk_exu]
  exact State.ReportsFit.closeAll (s := s.withTts { s.tts with active := s.tts.active.other, swapPending := false })
    h .table

theorem State.ReportsFit.startRound (h : s.ReportsFit) : s.startRound.ReportsFit :=
  State.startRound_keeps h (fun _ => State.ReportsFit.swap) fun _ _ hu => hu

theorem State.ReportsFit.serveIdle (h : s.ReportsFit) : s.serveIdle.ReportsFit :=
  State.serveIdle_keeps h fun _ => State.ReportsFit.startRound

/-- The tap's record goes to a queue of at most 56 (R105). -/
theorem State.ReportsFit.endPass (h : s.ReportsFit) : s.endPass.ReportsFit := by
  unfold State.endPass
  split
  · exact h
  next p _ =>
    obtain ⟨q, e, hfinish, -, hq⟩ := s.finishPass_eq p
    have htaken := h.takePassResult (s.passResult p)
    rw [hfinish]
    generalize s.takePassResult (s.passResult p) = u at hq htaken ⊢
    obtain ⟨hreports, hunit⟩ := htaken
    refine State.ReportsFit.startRound ?_
    rw [State.ReportsFit, State.withStk_rpq, State.withStk_exu, State.withRpq_rpq, State.withRpq_exu]
    refine ⟨?_, hunit⟩
    rcases hq with rfl | ⟨hroom, m, rfl⟩
    · exact hreports
    · have hroom' : u.rpq.summaries.length ≤ 56 := of_decide_eq_true hroom
      exact hreports.append _ (by omega)

/-- A take writes within the free space and spends what is left of the allowance. -/
theorem State.ReportsFit.take (h : s.ReportsFit) (hready : s.takeReady = true) : s.take.ReportsFit := by
  obtain ⟨hreports, hjobs, hleft⟩ := h
  cases hqueue : s.exu.jobs with
  | nil =>
    simp only [State.take, hqueue]
    exact ⟨hreports, hjobs, hleft⟩
  | cons j rest =>
    simp only [State.takeReady, hqueue, Bool.and_eq_true] at hready
    have hlength : 32 ≤ (s.excerptOf j).bytes.length := by
      rw [State.excerptOf, Built.bytes_length]
      exact Nat.le_add_right _ _
    rw [State.take_of_cons hqueue]
    refine ⟨hreports.write hlength (State.build_fits hready.2 j), ?_, ?_⟩
    · exact (List.length_tail ▸ Nat.sub_le _ _ : s.exu.jobs.tail.length ≤ s.exu.jobs.length).trans hjobs
    · exact (Nat.sub_le _ _).trans hleft

theorem State.ReportsFit.takeAll (n : Nat) : ∀ {s : State}, s.ReportsFit → (State.takeAll n s).ReportsFit := by
  induction n with
  | zero => exact id
  | succ n ih =>
    intro s h
    simp only [State.takeAll]
    split
    next hready => exact ih (h.take hready)
    next => exact h

theorem State.ReportsFit.stopRun (h : s.ReportsFit) : s.stopRun.ReportsFit := by
  obtain ⟨u, hu, hstop⟩ := s.stopRun_eq
  have hu' : u.ReportsFit := by rw [hu]; exact h
  have hclosed := hu'.closeAll .stopped
  rw [hstop]
  generalize u.closeAll .stopped = v at hclosed ⊢
  obtain ⟨hreports, hjobs, hleft⟩ := hclosed
  refine ⟨hreports, ?_, hleft⟩
  show (v.exu.jobs.map _).length ≤ 4
  rwa [List.length_map]

end

/-- Every request keeps the report queues and the excerpt unit within their sizes. -/
theorem Requested.reportsFit {s t : State} (h : Requested s t) (hs : s.ReportsFit) : t.ReportsFit := by
  cases h with
  | read => exact State.ReportsFit.serveIdle (s := s.withTts _) hs
  | copy => exact State.ReportsFit.serveIdle (s := s.withTts _) hs
  | swapNow => exact hs.swap
  | swapPending => exact State.ReportsFit.serveIdle (s := s.withTts _) hs
  | excerpt u hjobs hleft hforce =>
    obtain ⟨hreports, hfit⟩ := hs
    refine ⟨hreports, ?_⟩
    show u.InCapacity
    unfold ExcerptUnit.InCapacity
    rwa [hjobs, hleft, hforce]
  | attention n hlow hhigh =>
    exact ⟨hs.1.judge (q := { s.rpq with threshold := n }) hs.1.summaries ⟨hlow, hhigh⟩ rfl rfl, hs.2⟩
  | summary x rest hqueue =>
    refine ⟨hs.1.judge (q := { s.rpq with summaries := rest }) ?_ hs.1.threshold rfl rfl, hs.2⟩
    have hlength := hs.1.summaries
    rw [hqueue] at hlength
    exact Nat.le_of_succ_le hlength
  | chunk x rest hqueue => exact ⟨hs.1.afterChunk hqueue, hs.2⟩
  | start =>
    obtain ⟨hreports, -, hleft⟩ := State.ReportsFit.takeAll s.exu.jobs.length hs
    exact ⟨(State.startRun_rpq _).symm ▸ hreports, Nat.zero_le _, hleft⟩
  | stop => exact hs.stopRun
  | _ => exact hs

/-! ### Every step -/

theorem reportsFit_keptByEpochs : KeptByEpochs State.ReportsFit where
  timebase _ _ h := h
  handover _ h := h
  refill _ h := ⟨h.1, h.2.1, Nat.le_refl _⟩

theorem reportsFit_kept : Kept State.ReportsFit where
  pending _ _ h := h
  trx _ _ h := h
  cpt _ _ h := h
  powerOn _ _ := ⟨⟨Nat.zero_le _, rfl, Nat.zero_le _, rfl, nofun, Nat.le_refl 1, (by decide : 1 ≤ 64)⟩, Nat.zero_le _,
    Nat.le_refl _⟩
  softReset _ h := ⟨h.1.softReset, Nat.zero_le _, h.2.2⟩
  completeTick s _ h := by obtain ⟨_, _, _, he⟩ := s.completeTick_eq; rw [he]; exact h
  endPriming s _ h := by obtain ⟨_, _, _, he⟩ := s.endPriming_eq; rw [he]; exact h
  ppsEdge _ h := reportsFit_keptByEpochs.ppsEdge h
  idle _ _ _ h := h
  startRound _ _ h := h.startRound
  sampleEpoch s n _ h := reportsFit_keptByEpochs.issueIndex (s := s.elapse n) h
  acquiringTimeout _ _ _ h := h
  rollover s n _ h := reportsFit_keptByEpochs.rollover (s := s.elapse n) h
  enterHoldover s n _ h := reportsFit_keptByEpochs.enterHoldover (s := s.elapse n) h
  expireHoldover s n _ h := reportsFit_keptByEpochs.expireHoldover (s := s.elapse n) h
  passStart s _ h := by unfold State.startPass; split <;> exact h
  passEnd s n _ _ _ h := State.ReportsFit.endPass (s := s.elapse n) h
  readGrant _ _ _ h := State.ReportsFit.serveIdle (s := State.withTts _ _) h
  copySlice _ _ _ h := State.ReportsFit.serveIdle (s := State.withTts _ _) h
  excerptTake _ hready h := h.take hready
  gapTimeout _ _ _ h := h
  request r body _ _ hm hb h := (r.apply_requested body hm hb).reportsFit h

/-! ### The control port -/

theorem PortStep.inCapacity {c d : ControlPort} (h : PortStep c d) : c.InCapacity → d.InCapacity := by
  induction h with
  | refl => exact id
  | trans _ _ ih1 ih2 => exact ih2 ∘ ih1
  | powerOn => exact fun _ => ⟨Nat.zero_le _, Nat.zero_le _, fun _ => rfl⟩
  | softReset => exact fun _ => ⟨Nat.zero_le _, Nat.zero_le _, fun _ => rfl⟩
  | elapse c n =>
    rintro ⟨htransmit, hbacklog, hsent⟩
    exact ⟨htransmit, hbacklog, fun hnone => (if_pos hnone).trans (hsent hnone)⟩
  | link => exact id
  | resetPending => exact id
  | waits c f hroom =>
    rintro ⟨htransmit, -, hsent⟩
    refine ⟨htransmit, ?_, hsent⟩
    unfold ControlPort.backlog at hroom ⊢
    rw [List.length_append]
    exact hroom
  | executes c f rest x hfree hwaiting =>
    rintro ⟨htransmit, hbacklog, hsent⟩
    refine ⟨htransmit, ?_, hsent⟩
    simp only [ControlPort.backlog, hfree, hwaiting, List.length_cons, Option.isSome_none, Bool.false_eq_true,
      if_false] at hbacklog ⊢
    split <;> omega
  | places c r hroom =>
    rintro ⟨-, hbacklog, -⟩
    exact ⟨by rw [List.length_append]; exact hroom, hbacklog, fun hnone => by simp at hnone⟩
  | ends c x hbusy =>
    rintro ⟨htransmit, hbacklog, hsent⟩
    refine ⟨htransmit, ?_, hsent⟩
    have hsome : c.executing.isSome = true := Option.isSome_iff_ne_none.mpr hbusy
    simp only [ControlPort.backlog, hsome, if_true] at hbacklog ⊢
    split <;> omega
  | sent c r rest hqueue =>
    rintro ⟨htransmit, hbacklog, -⟩
    rw [hqueue] at htransmit
    exact ⟨Nat.le_of_succ_le htransmit, hbacklog, fun _ => rfl⟩
  | replaced c r w rest hqueue =>
    rintro ⟨htransmit, hbacklog, -⟩
    rw [hqueue] at htransmit
    refine ⟨by rw [List.length_append]; exact htransmit, ?_, fun _ => rfl⟩
    unfold ControlPort.backlog at hbacklog ⊢
    simp only [Option.isSome_none, Bool.false_eq_true, if_false]
    omega

/-- Every step takes the port by its steps. -/
theorem step_portStep {s t : State} (hstep : step s = .next t) : PortStep s.cpt t.cpt := by
  have hexec {c : Instr} {u : State} (hcpt : u.cpt = s.cpt) (hrun : exec c u = .next t) : PortStep s.cpt t.cpt := by
    obtain ⟨v, hv, -, hport⟩ := exec_ported c u
    rw [hv] at hrun
    cases hrun
    rwa [hcpt] at hport
  unfold step at hstep
  split at hstep
  next =>
    unfold idle at hstep
    split at hstep
    · cases hstep
      exact (Ported.of_serves s.startRound_serves).2
    · split at hstep
      · exact hexec rfl hstep
      · cases hstep
        exact .elapse _ 1
  next rest _ => exact hexec (u := s.withPending rest) rfl hstep

/-- Settles O51: the report queues by what each operation keeps, the port by its steps. -/
theorem queuesStayWithinCapacity : Obligations.QueuesStayWithinCapacity := by
  intro s t hs hstep
  obtain ⟨hfit, hport⟩ := State.withinCapacity_iff.mp hs
  exact State.withinCapacity_iff.mpr ⟨reportsFit_kept.step hfit hstep, (step_portStep hstep).inCapacity hport⟩

end Sys2Proof.Machine

/-! PROOFS. One step, the passing of a cycle with no command waiting, and the values after power-on reset. -/

namespace Sys2Proof.Machine

/-! ### One step -/

/-- With a command waiting, a step is that command. -/
theorem step_of_command {s : State} {c : Instr} {rest : List Instr} (h : s.pending = c :: rest) :
    step s = exec c (s.withPending rest) := by
  simp only [step, h]

/-- With none waiting, a step is the part's own. -/
theorem step_of_empty {s : State} (h : s.pending = []) : step s = idle s := by
  simp only [step, h]

/-- Settles O1. -/
theorem stepRunsTheFrontCommand : Obligations.StepRunsTheFrontCommand := fun _ _ _ => step_of_command

theorem ControlPort.elapse_hunting {c : ControlPort} (h : c.receiver = .hunting) (n : Nat) :
    c.elapse n = { c with sentFor := if c.transmit = [] then c.sentFor else c.sentFor + n } := by
  simp only [ControlPort.elapse, h]

theorem ControlPort.elapse_inFrame {c : ControlPort} {f : FrameInProgress} (h : c.receiver = .inFrame f) (n : Nat) :
    c.elapse n = { c with
      receiver := .inFrame { f with gap := f.gap + n },
      sentFor := if c.transmit = [] then c.sentFor else c.sentFor + n } := by
  simp only [ControlPort.elapse, h]

/-- Settles O2: the three branches of a step with no command waiting. -/
theorem emptyQueueLetsTimePass : Obligations.EmptyQueueLetsTimePass := by
  intro s hempty
  refine ⟨fun hround => ?_, fun e hround hdue => ?_, fun hround hnone => ⟨s.elapse 1, ?_, ?_⟩⟩
  · rw [step_of_empty hempty, idle, if_pos hround]
  · rw [step_of_empty hempty, idle, if_neg (by simp [hround]), hdue]
  · rw [step_of_empty hempty, idle, if_neg (by simp [hround]), hnone]
  · exact ⟨rfl, rfl, rfl, fun h => ControlPort.elapse_hunting h 1, fun _ h => ControlPort.elapse_inFrame h 1,
      rfl, rfl, rfl, rfl, rfl, rfl, rfl⟩

/-! ### Power-on reset -/

theorem Conditioner.powerOn_channel (k : Fin 48) : Conditioner.powerOn.channels[k] = Channel.powerOn := by
  simp only [Conditioner.powerOn, Fin.getElem_fin, Vector.getElem_replicate]

theorem Builder.powerOn_region (r : Fin 16) : Builder.powerOn.regions[r] = Region.powerOn := by
  simp only [Builder.powerOn, Fin.getElem_fin, Vector.getElem_replicate]

/-- Settles O4, block by block. -/
theorem powerOnResetRestoresTheStatedValues : Obligations.PowerOnResetRestoresTheStatedValues := by
  intro rate1 rate0 s
  refine ⟨_, rfl, rfl, rfl, fun i => ?_, fun k => ?_, rfl, rfl, rfl, rfl, rfl, fun _ => rfl, rfl, rfl, rfl, rfl,
    fun w n k => ?_, rfl, rfl, rfl, rfl, rfl, rfl, rfl, rfl, rfl, rfl, rfl, rfl, rfl, rfl, rfl, rfl, rfl, rfl,
    Builder.powerOn_region, rfl, rfl, rfl, rfl, rfl, rfl, ?_⟩
  case refine_1 =>
    simp only [Fin.getElem_fin, Vector.getElem_ofFn, State.powerOn, Vector.getElem_replicate]
    rfl
  case refine_2 =>
    intro c
    have hc : c = Channel.powerOn := Conditioner.powerOn_channel k
    clear_value c
    subst hc
    exact ⟨rfl, rfl, rfl, rfl, rfl, rfl, rfl, rfl, rfl, fun _ => rfl, rfl, rfl, rfl, rfl, rfl, fun _ => rfl⟩
  case refine_3 => cases w <;> exact ⟨rfl, rfl, rfl⟩
  case refine_4 => cases rate1 <;> cases rate0 <;> rfl

/-! ### The invariants after reset -/

theorem State.reset_storageWf : State.reset.storageWf := by
  refine ⟨fun k => ?_, Memory.wf_empty, ⟨Memory.wf_empty, Memory.wf_empty⟩, Memory.wf_empty, Memory.wf_empty⟩
  show (Conditioner.powerOn.channels[k]).ringsWf
  rw [Conditioner.powerOn_channel]
  exact ⟨Memory.wf_empty, Memory.wf_empty⟩

/-- Settles O5: each invariant at the values of power-on reset. -/
theorem resetMeetsTheInvariants : Obligations.ResetMeetsTheInvariants := by
  refine ⟨State.reset_storageWf, Timebase.powerOn_inBounds, ⟨rfl, fun _ => rfl⟩, ?table, ?run, fun r _ => ?region,
    ?queues, rfl⟩
  case table => exact tableInService_kept.powerOn _ _
  case run =>
    exact State.runInOrder_iff.mpr ⟨State.inStep_of_standby rfl rfl rfl, Timebase.powerOn_inBounds⟩
  case region =>
    show (Builder.powerOn.regions[r]).slot = .idle
    rw [Builder.powerOn_region]
    rfl
  case queues =>
    exact State.withinCapacity_iff.mpr
      ⟨reportsFit_kept.powerOn _ _, (PortStep.powerOn (.powerOn true true) _ _).inCapacity
        ⟨Nat.zero_le _, Nat.zero_le _, fun _ => rfl⟩⟩

end Sys2Proof.Machine

/-! PROOFS. The trunk rows (R2 to R7): what one bit, eight bits and a fall of FV make of a receiver. -/

namespace Sys2Proof.Machine

/-! ### One receiver -/

section
variable {t : Trunk}

theorem Trunk.takesBits_iff : t.takesBits = true ↔ t.state = .waiting ∨ t.state = .assembling := by
  simp [Trunk.takesBits]

theorem Trunk.takesBits_eq_false (h : t.state = .arming ∨ t.state = .complete ∨ t.state = .rejected) :
    t.takesBits = false := by
  rw [Bool.eq_false_iff, ne_eq, Trunk.takesBits_iff]
  rintro (hw | ha) <;> simp_all

/-- The bit taken stands below the bits already taken. -/
theorem Trunk.shifted_eq (t : Trunk) (bit : Bool) :
    (t.byteInProgress <<< 1) ||| (if bit then 1 else 0) = t.shifted bit := shiftIn_eq _ _

theorem Trunk.takeBit_ignored (bit : Bool) (h : t.takesBits = false) : t.takeBit bit = { t with fv := true } := by
  have h' : ({ t with fv := true } : Trunk).takesBits = false := h
  simp [Trunk.takeBit, h']

theorem Trunk.takeBit_within (bit : Bool) (h : t.takesBits = true) (hcount : t.bitCount < 7) :
    t.takeBit bit = { t with fv := true, bitCount := t.bitCount + 1, byteInProgress := t.shifted bit } := by
  have h' : ({ t with fv := true } : Trunk).takesBits = true := h
  simp only [Trunk.takeBit, h', if_true, hcount, Trunk.shifted_eq]

theorem Trunk.takeBit_eighth (bit : Bool) (h : t.takesBits = true) (hcount : t.bitCount = 7) :
    t.takeBit bit = Trunk.takeByte (t.shifted bit) { t with fv := true, bitCount := 0, byteInProgress := 0 } := by
  have h' : ({ t with fv := true } : Trunk).takesBits = true := h
  have hfull : ¬ t.bitCount < 7 := by omega
  simp only [Trunk.takeBit, h', if_true, hfull, if_false, Trunk.shifted_eq]

/-- A whole byte in WAITING is checked against the marker (R4). -/
theorem Trunk.takeByte_waiting (b : Byte) (h : t.state = .waiting) : Trunk.takeByte b t =
    if b = 0xB4 then { t with state := .assembling, byteCount := 1 }
    else { t with state := .rejected, faults := min 4294967295 (t.faults + 1) } := by
  simp only [Trunk.takeByte, h, trunkMarker, satInc_eq_min]

/-- A whole byte in ASSEMBLING is stored, and the 26th completes the frame (R5). -/
theorem Trunk.takeByte_assembling (b : Byte) (h : t.state = .assembling) : Trunk.takeByte b t =
    { t with frame := t.frame ++ [b], byteCount := t.byteCount + 1,
             state := if t.byteCount + 1 = 26 then .complete else .assembling } := by
  simp only [Trunk.takeByte, h]

theorem Trunk.fvFalls_takesBits (h : t.takesBits = true) :
    t.fvFalls = { t with fv := false, bitCount := 0, byteInProgress := 0 } := by
  have h' : ({ t with fv := false } : Trunk).takesBits = true := h
  simp only [Trunk.fvFalls, h', if_true]

theorem Trunk.fvFalls_ignored (h : t.takesBits = false) : t.fvFalls = { t with fv := false } := by
  have h' : ({ t with fv := false } : Trunk).takesBits = false := h
  simp [Trunk.fvFalls, h']

theorem Trunk.fvFalls_state : t.fvFalls.state = t.state := by
  cases h : t.takesBits with
  | true => rw [Trunk.fvFalls_takesBits h]
  | false => rw [Trunk.fvFalls_ignored h]

theorem Trunk.fvFalls_fv : t.fvFalls.fv = false := by
  cases h : t.takesBits with
  | true => rw [Trunk.fvFalls_takesBits h]
  | false => rw [Trunk.fvFalls_ignored h]

theorem Trunk.lowEdge_arming (h : t.state = .arming) : t.lowEdge = { t with fv := false, state := .waiting } := by
  unfold Trunk.lowEdge
  cases hfv : t.fv with
  | false => simp [h, hfv]
  | true =>
    have hfalls := Trunk.fvFalls_ignored (Trunk.takesBits_eq_false (.inl h))
    simp [hfalls, h]

theorem Trunk.lowEdge_low (h : t.state ≠ .arming) (hfv : t.fv = false) : t.lowEdge = t := by
  simp [Trunk.lowEdge, hfv, h]

theorem Trunk.lowEdge_fallen (h : t.state ≠ .arming) (hfv : t.fv = true) : t.lowEdge = t.pause false := by
  have hstate : t.fvFalls.state ≠ .arming := by rwa [Trunk.fvFalls_state]
  simp only [Trunk.lowEdge, hfv, if_true, hstate, if_false, Trunk.pause, ← Trunk.fvFalls_fv (t := t)]

end

/-- An update that leaves its receiver as it is leaves the state. -/
theorem State.onTrunk_id {s : State} {i : Fin 6} {f : Trunk → Trunk} (h : f s.trx[i] = s.trx[i]) :
    s.onTrunk i f = s := by
  rw [State.onTrunk, h]
  exact congrArg s.withTrx (Vector.set_getElem_self i.isLt)

/-! ### The rows -/

section
variable (s : State) (i : Fin 6)

theorem exec_trunkBit (bit : Bool) {f : Trunk → Trunk} (h : s.trx[i].takeBit bit = f s.trx[i]) :
    exec (.trunkBit i bit) s = .next (s.onTrunk i f) :=
  congrArg Host.Outcome.next (s.onTrunk_congr i h)

theorem exec_trunkByte (b : Byte) {f : Trunk → Trunk} (h : Trunk.takeBits8 b s.trx[i] = f s.trx[i]) :
    exec (.trunkByte i b) s = .next (s.onTrunk i f) :=
  congrArg Host.Outcome.next (s.onTrunk_congr i h)

theorem exec_pause (ended : Bool) {f : Trunk → Trunk} (h : s.trx[i].pause ended = f s.trx[i]) :
    exec (.pause ⟨i, ended⟩) s = .next (s.onTrunk i f) :=
  congrArg Host.Outcome.next (s.onTrunk_congr i h)

theorem exec_breakWithinByte {f : Trunk → Trunk} (h : s.trx[i].fvFalls = f s.trx[i]) :
    exec (.breakWithinByte i) s = .next (s.onTrunk i f) :=
  congrArg Host.Outcome.next (s.onTrunk_congr i h)

end

/-- Settles O6: the eighth bit hands the byte on, and the bits before it are collected. -/
theorem trunkBitIsTaken : Obligations.TrunkBitIsTaken := by
  intro s i bit
  refine ⟨fun hstate => ?_, fun hstate hcount => ?_, fun hstate hcount => ?_, fun hstate hcount => ?_⟩
  · exact exec_trunkBit s i bit (Trunk.takeBit_ignored bit (Trunk.takesBits_eq_false hstate))
  · exact exec_trunkBit s i bit (Trunk.takeBit_within bit (Trunk.takesBits_iff.mpr hstate) hcount)
  · refine exec_trunkBit s i bit ?_
    rw [Trunk.takeBit_eighth bit (Trunk.takesBits_iff.mpr (.inl hstate)) hcount]
    exact Trunk.takeByte_waiting _ hstate
  · refine exec_trunkBit s i bit ?_
    rw [Trunk.takeBit_eighth bit (Trunk.takesBits_iff.mpr (.inr hstate)) hcount]
    exact Trunk.takeByte_assembling _ hstate

/-- Settles O7: eight bits begun between bytes are one whole byte. -/
theorem trunkByteIsCheckedOrStored : Obligations.TrunkByteIsCheckedOrStored := by
  intro s i b hcount
  have hsame : ({ s.trx[i] with fv := true, bitCount := 0, byteInProgress := 0 } : Trunk)
      = { s.trx[i] with fv := true, byteInProgress := 0 } := by rw [← hcount]
  have hwhole (hstate : s.trx[i].state = .waiting ∨ s.trx[i].state = .assembling) :=
    (Trunk.takeBits8_takes b s.trx[i] hcount (Trunk.takesBits_iff.mpr hstate)).trans (congrArg _ hsame)
  refine ⟨fun hstate hmarker => ?_, fun hstate hmarker => ?_, fun hstate => ?_, fun hstate => ?_,
    fun u hu j hj => ?_⟩
  · refine exec_trunkByte s i b ?_
    exact (hwhole (.inl hstate)).trans
      ((Trunk.takeByte_waiting (t := { s.trx[i] with fv := true, byteInProgress := 0 }) b
      hstate).trans (if_pos hmarker))
  · refine exec_trunkByte s i b ?_
    exact (hwhole (.inl hstate)).trans
      ((Trunk.takeByte_waiting (t := { s.trx[i] with fv := true, byteInProgress := 0 }) b
      hstate).trans (if_neg hmarker))
  · refine exec_trunkByte s i b ?_
    exact (hwhole (.inr hstate)).trans
      (Trunk.takeByte_assembling (t := { s.trx[i] with fv := true, byteInProgress := 0 }) b hstate)
  · exact exec_trunkByte s i b (Trunk.takeBits8_ignores b _ (Trunk.takesBits_eq_false hstate))
  · rw [exec_trunkByte s i b rfl] at hu
    cases hu
    exact State.onTrunk_other _ _ _ _ (Ne.symm hj)

/-- Settles O8: a fall of FV, the pause that it begins, and the low edge. -/
theorem fallOfFvKeepsWholeBytes : Obligations.FallOfFvKeepsWholeBytes := by
  intro s i
  refine ⟨fun hstate => ?_, fun hstate => ?_, fun hstate => ?_, fun hstate hfv => ?_, fun hstate hfv => ?_⟩
  · have hfalls := Trunk.fvFalls_takesBits (Trunk.takesBits_iff.mpr hstate)
    exact ⟨fun ended => exec_pause s i ended (by rw [Trunk.pause, hfalls]), exec_breakWithinByte s i hfalls⟩
  · have hfalls := Trunk.fvFalls_ignored (Trunk.takesBits_eq_false hstate)
    exact ⟨fun ended => exec_pause s i ended (by rw [Trunk.pause, hfalls]), exec_breakWithinByte s i hfalls⟩
  · exact congrArg Host.Outcome.next (s.onTrunk_congr i (Trunk.lowEdge_arming hstate))
  · exact congrArg Host.Outcome.next (State.onTrunk_id (Trunk.lowEdge_low hstate hfv))
  · exact congrArg Host.Outcome.next (s.onTrunk_congr i (Trunk.lowEdge_fallen hstate hfv))

end Sys2Proof.Machine

/-! PROOFS. SAMPLE_EPOCH (R1 to R17, R24, R25, R42): the index issued, and what its handover makes of one channel: the
sample, the state and the tick accumulation. -/

namespace Sys2Proof.Machine

/-! ### The index -/

theorem exec_sampleEpoch {s : State} {n : Nat} (h : s.comesIn .sampleEpoch n) :
    exec .sampleEpoch s = .next (s.elapse n).issueIndex :=
  congrArg Host.Outcome.next (State.comeAbout_of_comesIn h State.issueIndex)

/-- An index that comes is one of the second's, and comes at its position. -/
theorem State.index_of_comesIn {s : State} {n : Nat} (h : s.comesIn .sampleEpoch n) :
    s.tbu.sampleIndex + 1 < fsOf s.tbu.fsInForce
      ∧ n = s.tbu.issueAt (s.tbu.sampleIndex + 1) - s.tbu.position := by
  have hdue := h.1
  simp only [State.dueIn] at hdue
  split at hdue
  next hlt => exact ⟨hlt, (Option.some.inj hdue).symm⟩
  next => cases hdue

/-- A receiver made ready for the next epoch, the break counted (R3, R8). -/
theorem Trunk.rearm_eq (t : Trunk) : t.rearm = { t with
    state := if t.fv then .arming else .waiting, byteCount := 0, bitCount := 0, byteInProgress := 0, frame := [],
    breaks := if t.state = .assembling then min 4294967295 (t.breaks + 1) else t.breaks } := by
  simp only [Trunk.rearm, countIf_eq, decide_eq_true_eq]

/-- Settles O9: the index comes at its position, and the handover readies every receiver. -/
theorem sampleEpochIssuesTheNextIndex : Obligations.SampleEpochIssuesTheNextIndex := by
  intro s n hcomes hposition
  obtain ⟨hindex, hn⟩ := State.index_of_comesIn hcomes
  have hat : s.tbu.position + n
      = (s.tbu.sampleIndex + 1) * s.tbu.q + min (s.tbu.sampleIndex + 1) s.tbu.r := by
    unfold Timebase.issueAt at hn
    omega
  refine ⟨_, exec_sampleEpoch hcomes, hindex, ?_, fun i => ?_, rfl, rfl, rfl, rfl, rfl, rfl, rfl, rfl⟩
  · rw [← hat]
    rfl
  · rw [State.issueIndex_trx]
    exact Trunk.rearm_eq _

/-! ### The sample of a channel -/

section
variable (c : Channel) (epoch : Nat) (first : Bool) (x : Option (Int × Bool))

theorem Channel.handover_last : (c.handover epoch first x).last = c.valueOf x := by
  cases x <;> simp [Channel.handover, Channel.accumulate, Channel.takeSample, Channel.valueOf]

/-- The counts of a handover are of a channel in service, as its record says (R9, R16, R17). -/
theorem Channel.handover_counts :
    (c.handover epoch first x).heldCount = countIf (c.record.enabled && x.isNone) c.heldCount
      ∧ (c.handover epoch first x).clipCount
        = countIf (c.record.enabled && (x.map (·.2)).getD false) c.clipCount
      ∧ (c.handover epoch first x).saturationCount
        = countIf (c.record.enabled && (x.map fun p => calibrateSaturates c.record.gain p.1).getD false)
          c.saturationCount := by
  cases x <;>
    simp [Channel.handover, Channel.accumulate, Channel.takeSample, Channel.applyEnable_inService, countIf]

/-- The state, the runs and the stale count after a handover are those of the state step alone. -/
theorem Channel.handover_steps :
    (c.handover epoch first x).heldRun = (c.applyEnable.stepState x.isSome).heldRun
      ∧ (c.handover epoch first x).goodRun = (c.applyEnable.stepState x.isSome).goodRun
      ∧ (c.handover epoch first x).staleCount = (c.applyEnable.stepState x.isSome).staleCount := by
  unfold Channel.handover Channel.accumulate
  dsimp only
  generalize c.applyEnable = a
  cases x with
  | none =>
    cases hstate : a.state with
    | live =>
      by_cases hlimit : a.record.staleLimit ≤ satInc 255 a.heldRun <;>
        simp [Channel.takeSample, Channel.stepState, hstate, hlimit]
    | _ =>
      simp only [Channel.takeSample, Channel.stepState, hstate, Option.isSome_none, and_self]
  | some p =>
    cases hstate : a.state with
    | _ =>
      simp only [Channel.takeSample, Channel.stepState, hstate, Option.isSome_some, and_self]

end

/-- Channel k after the handover of a numbered epoch. -/
theorem State.sampleEpoch_channel {s : State} {epoch : Nat} (hm : s.mode ≠ .standby)
    (ho : s.ccu.openEpoch = some epoch) (n : Nat) (k : Fin 48) :
    (s.elapse n).issueIndex.ccu.channels[k]
      = s.ccu.channels[k].handover epoch (epoch % s.ccu.dec = 0) (s.sampleOf k) := by
  rw [State.issueIndex_ccu]
  exact Conditioner.handover_channel (c := s.ccu) hm ho _ _ k

theorem State.sampleOf_of_complete {s : State} {k : Fin 48} (h : (s.trunkOf k).slotComplete (k.val % 8)) :
    s.sampleOf k = some ((s.trunkOf k).slotValue (k.val % 8), (s.trunkOf k).slotClip (k.val % 8)) :=
  Trunk.sample_of_complete (Nat.mod_lt _ (by decide)) h

theorem State.sampleOf_of_incomplete {s : State} {k : Fin 48} (h : ¬ (s.trunkOf k).slotComplete (k.val % 8)) :
    s.sampleOf k = none :=
  Trunk.sample_of_incomplete (Nat.mod_lt _ (by decide)) h

theorem State.sampleOf_isSome_iff (s : State) (k : Fin 48) :
    (s.sampleOf k).isSome = true ↔ (s.trunkOf k).slotComplete (k.val % 8) :=
  Trunk.sample_isSome_iff _ _ (Nat.mod_lt _ (by decide))

/-- Settles O10: the sample of each channel is new exactly where its slot is complete. -/
theorem handoverWritesEverySample : Obligations.HandoverWritesEverySample := by
  intro s n epoch hcomes hm ho hwf
  have hnumbered := Conditioner.handover_numbered hm ho s.sampleOf s.tbu.label
  refine ⟨_, exec_sampleEpoch hcomes, ?_, ?_, ?_⟩
  · exact congrArg Conditioner.newestEpoch hnumbered
  · exact congrArg Conditioner.openEpoch hnumbered
  rintro k old new x clip rfl hnew rfl rfl
  rw [State.sampleEpoch_channel hm ho] at hnew
  subst hnew
  have hraw := (hwf.1 k).1
  refine ⟨fun hcomplete => ?_, fun hincomplete => ?_, fun i hi => ?_, Channel.handover_record _ _ _ _,
    Channel.handover_cfRing _ _ _ _, Channel.handover_sta _ _ _ _, Channel.handover_lta _ _ _ _⟩
  · rw [State.sampleOf_of_complete hcomplete]
    obtain ⟨hheld, hclip, hsaturation⟩ := Channel.handover_counts s.ccu.channels[k] epoch (epoch % s.ccu.dec = 0)
      (some ((s.trunkOf k).slotValue (k.val % 8), (s.trunkOf k).slotClip (k.val % 8)))
    refine ⟨Channel.handover_last _ _ _ _, ?_, ?_, ?_, ?_⟩
    · rw [Channel.handover_rawRing, Memory.read_write_same hraw]
      rfl
    · rw [hheld, Option.isNone_some, Bool.and_false]
      rfl
    · rw [hclip, countIf_eq]
      simp only [Option.map_some, Option.getD_some, Bool.and_eq_true]
    · rw [hsaturation, countIf_eq]
      simp only [Option.map_some, Option.getD_some, Bool.and_eq_true]
  · rw [State.sampleOf_of_incomplete hincomplete]
    obtain ⟨hheld, hclip, hsaturation⟩ :=
      Channel.handover_counts s.ccu.channels[k] epoch (epoch % s.ccu.dec = 0) none
    refine ⟨Channel.handover_last _ _ _ _, ?_, ?_, ?_, ?_⟩
    · rw [Channel.handover_rawRing, Memory.read_write_same hraw]
      rfl
    · rw [hheld, countIf_eq, Option.isNone_none, Bool.and_true]
    · rw [hclip, Option.map_none, Option.getD_none, Bool.and_false]
      rfl
    · rw [hsaturation, Option.map_none, Option.getD_none, Bool.and_false]
      rfl
  · rw [Channel.handover_rawRing, Memory.read_write_other _ _ hi]

/-! ### The state of a channel -/

section
variable {c : Channel}

theorem Channel.applyEnable_off (h : c.record.enabled = false) : c.applyEnable =
    if c.state = .disabled then c else { c with state := .disabled, goodRun := 0, heldRun := 0 } := by
  unfold Channel.applyEnable
  by_cases hstate : c.state = .disabled <;> simp [h, hstate]

theorem Channel.applyEnable_on (h : c.record.enabled = true) : c.applyEnable =
    if c.state = .disabled then { c with state := .recovering, goodRun := 0, heldRun := 0 } else c := by
  unfold Channel.applyEnable
  by_cases hstate : c.state = .disabled <;> simp [h, hstate]

theorem Channel.applyEnable_on_of_ne (h : c.record.enabled = true) (hstate : c.state ≠ .disabled) :
    c.applyEnable = c := by rw [Channel.applyEnable_on h, if_neg hstate]

theorem Channel.applyEnable_on_disabled (h : c.record.enabled = true) (hstate : c.state = .disabled) :
    c.applyEnable = { c with state := .recovering, goodRun := 0, heldRun := 0 } := by
  rw [Channel.applyEnable_on h, if_pos hstate]

theorem Channel.stepState_disabled (h : c.state = .disabled) (isNew : Bool) : c.stepState isNew = c := by
  simp only [Channel.stepState, h]

theorem Channel.stepState_live_new (h : c.state = .live) : c.stepState true = { c with heldRun := 0 } := by
  simp only [Channel.stepState, h, if_true]

theorem Channel.stepState_live_held (h : c.state = .live) : c.stepState false =
    if c.record.staleLimit ≤ min 255 (c.heldRun + 1) then
      { c with heldRun := min 255 (c.heldRun + 1), state := .stale,
               staleCount := min 4294967295 (c.staleCount + 1) }
    else { c with heldRun := min 255 (c.heldRun + 1) } := by
  simp [Channel.stepState, h, satInc_eq_min]

theorem Channel.stepState_stale_new (h : c.state = .stale) : c.stepState true =
    { c with heldRun := 0, goodRun := 1, state := if c.record.recovery ≤ 1 then .live else .recovering } := by
  simp only [Channel.stepState, h, if_true]

theorem Channel.stepState_stale_held (h : c.state = .stale) :
    c.stepState false = { c with heldRun := min 255 (c.heldRun + 1) } := by
  simp [Channel.stepState, h, satInc_eq_min]

theorem Channel.stepState_recovering_new (h : c.state = .recovering) : c.stepState true =
    { c with heldRun := 0, goodRun := min 255 (c.goodRun + 1),
             state := if c.record.recovery ≤ min 255 (c.goodRun + 1) then .live else .recovering } := by
  simp only [Channel.stepState, h, if_true, satInc_eq_min]

theorem Channel.stepState_recovering_held (h : c.state = .recovering) : c.stepState false =
    { c with heldRun := min 255 (c.heldRun + 1), goodRun := 0, state := .stale,
             staleCount := min 4294967295 (c.staleCount + 1) } := by
  simp [Channel.stepState, h, satInc_eq_min]

end

/-- The four fields after a handover. -/
theorem Channel.handover_stepped (c : Channel) (epoch : Nat) (first : Bool) {x : Option (Int × Bool)} {isNew : Bool}
    (hx : x.isSome = isNew) {u : Channel} (hu : c.applyEnable.stepState isNew = u) :
    (c.handover epoch first x).state = u.state ∧ (c.handover epoch first x).heldRun = u.heldRun
      ∧ (c.handover epoch first x).goodRun = u.goodRun ∧ (c.handover epoch first x).staleCount = u.staleCount := by
  subst hx hu
  exact ⟨Channel.handover_state _ _ _ _, Channel.handover_steps _ _ _ _⟩

/-- Settles O11: the pending enable, then the step of the state on the sample. -/
theorem handoverStepsTheChannelState : Obligations.HandoverStepsTheChannelState := by
  intro s n hcomes
  refine ⟨_, exec_sampleEpoch hcomes, ?_⟩
  rintro k old new hold hnew
  have hnumbered (hm : s.mode ≠ .standby) (ho : s.ccu.openEpoch ≠ none) :
      ∃ epoch first, new = old.handover epoch first (s.sampleOf k) := by
    obtain ⟨epoch, ho⟩ := Option.ne_none_iff_exists'.mp ho
    exact ⟨epoch, _, by rw [hnew, State.sampleEpoch_channel hm ho, hold]⟩
  refine ⟨fun hnone => ?_, fun hm ho hoff => ?_, fun hm ho hon hcomplete => ?_, fun hm ho hon hincomplete => ?_⟩
  · obtain ⟨hnewest, htick, -, -, -, hchannels⟩ := Conditioner.handover_unnumbered hnone s.sampleOf s.tbu.label
    refine ⟨?_, hnewest, htick⟩
    rw [hnew, hold]
    refine (hchannels k).trans ?_
    simp only [Channel.applyEnable, Bool.not_eq_true]
  · obtain ⟨epoch, first, rfl⟩ := hnumbered hm ho
    have hstep : old.applyEnable.stepState (s.sampleOf k).isSome = old.applyEnable :=
      Channel.stepState_disabled (by rw [Channel.applyEnable_off hoff]; split <;> [assumption; rfl]) _
    obtain ⟨hstate, hheld, hgood, hstale⟩ := old.handover_stepped epoch first rfl hstep
    rw [hstate, hheld, hgood, hstale, Channel.applyEnable_off hoff]
    split
    next hd => exact ⟨hd, rfl, fun hne => absurd hd hne, fun _ => ⟨rfl, rfl⟩⟩
    next hd => exact ⟨rfl, rfl, fun _ => ⟨rfl, rfl⟩, fun heq => absurd heq hd⟩
  · obtain ⟨epoch, first, rfl⟩ := hnumbered hm ho
    have hnew : (s.sampleOf k).isSome = true := (s.sampleOf_isSome_iff k).mpr hcomplete
    have hdone {u : Channel} (hu : old.applyEnable.stepState true = u) := old.handover_stepped epoch first hnew hu
    cases hst : old.state with
    | disabled =>
      have hrecovers : old.applyEnable.state = .recovering := by rw [Channel.applyEnable_on_disabled hon hst]
      obtain ⟨hstate, hheld, hgood, hstale⟩ := hdone (Channel.stepState_recovering_new hrecovers)
      rw [hstate, hheld, hgood, hstale, Channel.applyEnable_on_disabled hon hst]
      exact ⟨rfl, rfl, nofun, fun _ => ⟨rfl, rfl⟩, nofun⟩
    | live =>
      have hkeep := Channel.applyEnable_on_of_ne hon (by rw [hst]; nofun)
      obtain ⟨hstate, hheld, hgood, hstale⟩ := hdone (by rw [hkeep, Channel.stepState_live_new hst])
      rw [hstate, hheld, hgood, hstale]
      exact ⟨rfl, rfl, fun _ => ⟨hst, rfl⟩, fun h => h.elim nofun nofun, nofun⟩
    | stale =>
      have hkeep := Channel.applyEnable_on_of_ne hon (by rw [hst]; nofun)
      obtain ⟨hstate, hheld, hgood, hstale⟩ := hdone (by rw [hkeep, Channel.stepState_stale_new hst])
      rw [hstate, hheld, hgood, hstale]
      exact ⟨rfl, rfl, nofun, fun _ => ⟨rfl, rfl⟩, nofun⟩
    | recovering =>
      have hkeep := Channel.applyEnable_on_of_ne hon (by rw [hst]; nofun)
      obtain ⟨hstate, hheld, hgood, hstale⟩ := hdone (by rw [hkeep, Channel.stepState_recovering_new hst])
      rw [hstate, hheld, hgood, hstale]
      exact ⟨rfl, rfl, nofun, fun h => h.elim nofun nofun, fun _ => ⟨rfl, rfl⟩⟩
  · obtain ⟨epoch, first, rfl⟩ := hnumbered hm ho
    have hheldSample : (s.sampleOf k).isSome = false :=
      Bool.eq_false_iff.mpr (mt (s.sampleOf_isSome_iff k).mp hincomplete)
    have hdone {u : Channel} (hu : old.applyEnable.stepState false = u) :=
      old.handover_stepped epoch first hheldSample hu
    cases hst : old.state with
    | disabled =>
      have hrecovers : old.applyEnable.state = .recovering := by rw [Channel.applyEnable_on_disabled hon hst]
      obtain ⟨hstate, hheld, hgood, hstale⟩ := hdone (Channel.stepState_recovering_held hrecovers)
      rw [hstate, hheld, hgood, hstale, Channel.applyEnable_on_disabled hon hst]
      exact ⟨fun hne => absurd rfl hne, nofun, nofun, fun _ => ⟨rfl, rfl, rfl⟩, fun _ => rfl⟩
    | live =>
      have hkeep := Channel.applyEnable_on_of_ne hon (by rw [hst]; nofun)
      obtain ⟨hstate, hheld, hgood, hstale⟩ := hdone (by rw [hkeep, Channel.stepState_live_held hst])
      rw [hstate, hheld, hgood, hstale]
      refine ⟨fun _ => by split <;> rfl, fun _ => ⟨by split <;> rfl, fun hlimit => ?_, fun hlimit => ?_⟩, nofun,
        fun h => h.elim nofun nofun, nofun⟩
      · rw [if_pos hlimit]
        exact ⟨rfl, rfl⟩
      · rw [if_neg hlimit]
        exact ⟨hst, rfl⟩
    | stale =>
      have hkeep := Channel.applyEnable_on_of_ne hon (by rw [hst]; nofun)
      obtain ⟨hstate, hheld, hgood, hstale⟩ := hdone (by rw [hkeep, Channel.stepState_stale_held hst])
      rw [hstate, hheld, hgood, hstale]
      exact ⟨fun _ => rfl, nofun, fun _ => ⟨hst, rfl, rfl⟩, fun h => h.elim nofun nofun, nofun⟩
    | recovering =>
      have hkeep := Channel.applyEnable_on_of_ne hon (by rw [hst]; nofun)
      obtain ⟨hstate, hheld, hgood, hstale⟩ := hdone (by rw [hkeep, Channel.stepState_recovering_held hst])
      rw [hstate, hheld, hgood, hstale]
      exact ⟨fun _ => rfl, nofun, nofun, fun _ => ⟨rfl, rfl, rfl⟩, nofun⟩

/-! ### The tick accumulation -/

/-- Settles O12: the accumulation over the value and the mark written. -/
theorem handoverAccumulatesTheTick : Obligations.HandoverAccumulatesTheTick := by
  rintro s n epoch d hcomes hm ho hwf rfl
  have hnumbered := Conditioner.handover_numbered hm ho s.sampleOf s.tbu.label
  have hdec : s.ccu.dec = 2 ^ s.ccu.decimation.val := rfl
  have hpos : 0 < 2 ^ s.ccu.decimation.val := Nat.two_pow_pos _
  have hlabel : (s.elapse n).issueIndex.ccu.tickLabel = s.ccu.nextTickLabel epoch s.tbu.label :=
    congrArg Conditioner.tickLabel hnumbered
  have hstage : (s.elapse n).issueIndex.ccu.stage
      = if epoch % s.ccu.dec + 1 = s.ccu.dec then .completion else s.ccu.stage :=
    congrArg Conditioner.stage hnumbered
  refine ⟨_, exec_sampleEpoch hcomes, fun hfirst => ?_, fun hlater => ?_, fun hlast => ?_, fun hmore => ?_, ?_⟩
  · rw [hlabel]
    exact if_pos hfirst
  · rw [hlabel]
    exact if_neg hlater
  · rw [hstage, hdec, if_pos (by omega)]
  · rw [hstage, hdec, if_neg (by omega)]
  · rintro k old new e rfl hnew rfl
    rw [State.sampleEpoch_channel hm ho] at hnew
    subst hnew
    obtain ⟨hsum, hheld, hlive⟩ :=
      Channel.handover_tick s.ccu.channels[k] epoch (epoch % s.ccu.dec = 0) (s.sampleOf k)
    rw [Channel.handover_rawRing, Memory.read_write_same (hwf.1 k).1, hsum, hheld, hlive, hdec]
    refine ⟨?_, ?_, ?_⟩
    · simp only [decide_eq_true_eq]
    · simp only [decide_eq_true_eq, Bool.or_eq_true, Option.isNone_iff_eq_none]
      split <;> simp_all
    · simp only [decide_eq_true_eq, Bool.and_eq_true]
      split <;> simp_all

end Sys2Proof.Machine

/-! PROOFS. Calibration (R11) and the tick completion (R23 to R34, R85, R161). -/

namespace Sys2Proof.Machine

/-! ### Calibration -/

/-- Calibration at the gain of exponent `e` and mantissa `m`. -/
theorem calibrateExact_eq {m : Nat} (hm : m < 2048) (e : Nat) (x : Int) :
    calibrateExact (2048 * e + m) x = (x * (2048 + m) + 2 ^ (10 + e)) / 2 ^ (11 + e) := by
  have he : (2048 * e + m) / 2048 = e := by omega
  have hmod : (2048 * e + m) % 2048 = m := by omega
  simp only [calibrateExact, he, hmod]

theorem calibrate_eq (gain : Nat) (x : Int) :
    calibrate gain x = max (-8388608) (min 8388607 (calibrateExact gain x)) :=
  clampInt_eq (by decide) _

theorem calibrateSaturates_iff (gain : Nat) (x : Int) : calibrateSaturates gain x = true
    ↔ calibrateExact gain x < -8388608 ∨ 8388607 < calibrateExact gain x := by
  rw [calibrateSaturates, decide_eq_true_eq, calibrate_eq]
  omega

/-- With a halving the rounded product stays within 24 bits. -/
theorem rounded_product_within {m e : Nat} {x y : Int} (hm : m < 2048) (he : 1 ≤ e) (hlow : -8388608 ≤ x)
    (hhigh : x ≤ 8388607) (hle : y * 2 ^ (11 + e) ≤ x * (2048 + m) + 2 ^ (10 + e))
    (hlt : x * (2048 + m) + 2 ^ (10 + e) < (y + 1) * 2 ^ (11 + e)) : -8388608 ≤ y ∧ y ≤ 8388607 := by
  have hgain : (0 : Int) ≤ 2048 + m := by omega
  have hproductHigh : x * (2048 + m) ≤ 8388607 * (2048 + m) := mul_le_mul_of_nonneg_right hhigh hgain
  have hproductLow : -8388608 * (2048 + m) ≤ x * (2048 + m) := mul_le_mul_of_nonneg_right hlow hgain
  have hunit : (2 : Int) ^ (11 + e) = 2 * 2 ^ (10 + e) := by rw [show 11 + e = (10 + e) + 1 by omega, pow_succ']
  have hbig : (2048 : Int) ≤ 2 ^ (10 + e) := by
    calc (2048 : Int) = 2 ^ 11 := by norm_num
      _ ≤ 2 ^ (10 + e) := pow_le_pow_right₀ (by norm_num) (by omega)
  rw [hunit] at hle hlt
  generalize (2 : Int) ^ (10 + e) = h at hle hlt hbig
  constructor
  · by_contra hy
    have hmul : (y + 1) * (2 * h) ≤ -8388608 * (2 * h) := mul_le_mul_of_nonneg_right (by omega) (by omega)
    omega
  · by_contra hy
    have hmul : 8388608 * (2 * h) ≤ y * (2 * h) := mul_le_mul_of_nonneg_right (by omega) (by omega)
    omega

/-- Settles O13: the quotient of the rounded product and its bounds. -/
theorem calibrationRoundsHalfUpAndSaturates : Obligations.CalibrationRoundsHalfUpAndSaturates := by
  intro e m x he hm hlow hhigh
  have hpos : (0 : Int) < 2 ^ (11 + e) := by positivity
  have hexact := calibrateExact_eq hm e x
  have hle : calibrateExact (2048 * e + m) x * 2 ^ (11 + e) ≤ x * (2048 + m) + 2 ^ (10 + e) := by
    rw [hexact]
    exact Int.ediv_mul_le _ hpos.ne'
  have hlt : x * (2048 + m) + 2 ^ (10 + e) < (calibrateExact (2048 * e + m) x + 1) * 2 ^ (11 + e) := by
    rw [hexact]
    exact Int.lt_ediv_add_one_mul_self _ hpos
  refine ⟨calibrateExact (2048 * e + m) x, hle, hlt, calibrate_eq _ _, calibrateSaturates_iff _ _, fun hsat => ?_,
    fun he0 hm0 => ?_⟩
  · by_contra hne
    have hwithin := rounded_product_within hm (Nat.one_le_iff_ne_zero.mpr hne) hlow hhigh hle hlt
    have houtside := (calibrateSaturates_iff _ _).mp hsat
    omega
  · subst he0 hm0
    have hy : calibrateExact (2048 * 0 + 0) x = x := by
      rw [hexact]
      norm_num
      omega
    rw [calibrate_eq, hy]
    omega

/-! ### Moving an average -/

/-- An average moves by the floored quotient, and stays between itself and E (R29, R31). -/
theorem moveAverage_spec (a e n : Nat) : (moveAverage a e n : Int) = a + ((e : Int) - a) / 2 ^ n
    ∧ min a e ≤ moveAverage a e n ∧ moveAverage a e n ≤ max a e := by
  have hunit : (0 : Int) < 2 ^ n := by positivity
  have hquotient : min 0 ((e : Int) - a) ≤ ((e : Int) - a) / 2 ^ n
      ∧ ((e : Int) - a) / 2 ^ n ≤ max 0 ((e : Int) - a) := by
    rcases le_or_gt (a : Int) e with hle | hlt
    · have hnonneg : (0 : Int) ≤ e - a := by omega
      have hq := Int.ediv_nonneg hnonneg hunit.le
      have hself := Int.ediv_le_self (2 ^ n) hnonneg
      omega
    · have hneg := Int.ediv_neg_of_neg_of_pos (show (e : Int) - a < 0 by omega) hunit
      have hscaled : ((e : Int) - a) * 2 ^ n ≤ e - a := by
        have := mul_le_mul_of_nonpos_left (show (1 : Int) ≤ 2 ^ n from hunit) (show (e : Int) - a ≤ 0 by omega)
        rwa [mul_one] at this
      have hfloor := Int.le_ediv_of_mul_le hunit hscaled
      omega
  have heq : (moveAverage a e n : Int) = a + ((e : Int) - a) / 2 ^ n := by
    unfold moveAverage
    rw [Int.toNat_of_nonneg (by omega)]
  generalize ((e : Int) - a) / 2 ^ n = q at hquotient heq
  exact ⟨heq, by omega, by omega⟩

/-! ### The completion of a tick -/

theorem exec_tickCompletion {s : State} (hstage : s.ccu.stage = .completion) (hround : s.roundDue = false) :
    exec .tickCompletion s = .next s.completeTick := by
  have hdue : s.dueIn .tickCompletion = some 0 := if_pos (decide_eq_true hstage)
  exact congrArg Host.Outcome.next (State.comeAbout_of_due hdue hround State.completeTick)

theorem exec_primingEnd {s : State} (hstage : s.ccu.stage = .primingEnd) (hround : s.roundDue = false) :
    exec .primingEnd s = .next s.endPriming := by
  have hdue : s.dueIn .primingEnd = some 0 := if_pos (decide_eq_true hstage)
  exact congrArg Host.Outcome.next (State.comeAbout_of_due hdue hround State.endPriming)

/-- Of the conditioner the mode decides the stage alone. -/
theorem State.completeTick_ccu (s : State) :
    ∃ st, s.completeTick.ccu = { s.ccu.completeTick with stage := st } := by
  unfold State.completeTick
  generalize s.ccu.completeTick = c
  dsimp only
  split
  · exact ⟨c.stage, rfl⟩
  · exact ⟨_, rfl⟩
  · exact ⟨c.stage, rfl⟩

theorem Conditioner.completeTick_channel (c : Conditioner) (k : Fin 48) :
    c.completeTick.channels[k] = c.channels[k].completeTick c.tickCount c.dec c.staShift c.ltaShift := by
  simp only [Conditioner.completeTick]
  exact Conditioner.eachChannel_channel c _ k

/-- What a completion leaves of a channel alone (R27 to R33). -/
theorem Channel.completeTick_frame (c : Channel) (t d n m : Nat) :
    (c.completeTick t d n m).record = c.record ∧ (c.completeTick t d n m).state = c.state
      ∧ (c.completeTick t d n m).rawRing = c.rawRing ∧ (c.completeTick t d n m).last = c.last
      ∧ ∃ entry, (c.completeTick t d n m).cfRing = Memory.write .cleared c.cfRing (t % 256) entry := by
  unfold Channel.completeTick
  split
  · exact ⟨rfl, rfl, rfl, rfl, _, rfl⟩
  · exact ⟨rfl, rfl, rfl, rfl, _, rfl⟩

/-- A held tick, and every tick of a DISABLED channel (R27, R28). -/
theorem Channel.completeTick_held {c : Channel} (h : c.state = .disabled ∨ c.heldInTick = true) (t d n m : Nat) :
    c.completeTick t d n m = { c with cfRing := Memory.write .cleared c.cfRing (t % 256) .cleared } := by
  simp only [Channel.completeTick, h, if_true, Config.tickRingLength]

/-- Any other tick (R29 to R33). -/
theorem Channel.completeTick_measured {c : Channel} (hstate : c.state ≠ .disabled) (hheld : c.heldInTick = false)
    (t d n m : Nat) : ∃ env sta v, env = c.envelopeSum / d * 256 ∧ sta = moveAverage c.sta env n
      ∧ v = min 255 (16 * sta / max c.lta (max c.record.noise 1 * 256))
      ∧ c.completeTick t d n m = { c with
        sta := sta, lta := if c.record.freeze = 0 ∨ v < c.record.freeze then moveAverage c.lta env m else c.lta,
        cfRing := Memory.write .cleared c.cfRing (t % 256) { value := v, valid := c.liveThroughout } } := by
  have hnot : ¬ (c.state = .disabled ∨ c.heldInTick = true) := by simp [hstate, hheld]
  exact ⟨_, _, _, rfl, rfl, rfl, if_neg hnot⟩

/-- Settles O14: the entry of each channel, and the label of the tick. -/
theorem tickCompletionFormsEveryEntry : Obligations.TickCompletionFormsEveryEntry := by
  intro s hstage hround hwf
  obtain ⟨hrings, hlabels, -⟩ := hwf
  obtain ⟨st, hccu⟩ := s.completeTick_ccu
  have hring : s.completeTick.ccu.labelRing
      = Memory.write .cleared s.ccu.labelRing (s.ccu.tickCount % 256) s.ccu.tickLabel := by rw [hccu]; rfl
  refine ⟨_, exec_tickCompletion hstage hround, by rw [hccu]; rfl, ?_, fun i hi => ?_, ?_⟩
  · rw [hring, Memory.read_write_same hlabels]
  · rw [hring, Memory.read_write_other _ _ hi]
  rintro k old new entry env hold hnew rfl henv
  have hcf : Memory.wf CfEntry.cleared old.cfRing := by rw [hold]; exact (hrings k).2
  have hchannel : new = old.completeTick s.ccu.tickCount s.ccu.dec s.ccu.staShift s.ccu.ltaShift := by
    rw [hnew, hccu, hold]
    exact Conditioner.completeTick_channel s.ccu k
  obtain ⟨hrecord, hstate, hraw, hlast, entry, hwritten⟩ :=
    old.completeTick_frame s.ccu.tickCount s.ccu.dec s.ccu.staShift s.ccu.ltaShift
  subst hchannel
  refine ⟨fun hnone => ?_, fun hservice hmeasured => ?_, fun i hi => ?_, hrecord, hstate, hraw, hlast⟩
  · rw [Channel.completeTick_held hnone]
    exact ⟨Memory.read_write_same hcf _ _, rfl, rfl⟩
  · obtain ⟨env', sta, v, henv', hsta, hv, hdone⟩ := Channel.completeTick_measured hservice hmeasured
      s.ccu.tickCount s.ccu.dec s.ccu.staShift s.ccu.ltaShift
    obtain rfl : env' = env := henv'.trans henv.symm
    obtain ⟨hstaEq, hstaLow, hstaHigh⟩ := moveAverage_spec old.sta env' s.ccu.staShift
    rw [hdone]
    dsimp only
    rw [Memory.read_write_same hcf, hsta]
    refine ⟨hstaEq, hstaLow, hstaHigh, by rw [hv, hsta], rfl, fun hmoves => ?_, fun hfreeze hfrozen => ?_⟩
    · rw [if_pos hmoves]
      exact (moveAverage_spec old.lta env' s.ccu.ltaShift).1
    · rw [if_neg]
      rintro (h | h)
      · exact hfreeze h
      · exact Nat.not_lt.mpr hfrozen h
  · rw [hwritten, Memory.read_write_other _ _ hi]

/-! ### The countdown and the origins -/

section
variable {s : State}

theorem State.completeTick_listening (h : s.mode = .listening) : s.completeTick.mdc = s.mdc
    ∧ s.completeTick.ccu.stage = .none ∧ s.completeTick.stk = s.stk.append (s.ccu.tickCount - 240) := by
  have htick : s.ccu.completeTick.tickCount = s.ccu.tickCount + 1 := rfl
  have hstage : s.ccu.completeTick.stage = .none := rfl
  have hmode : s.mdc.mode = .listening := h
  unfold State.completeTick
  generalize s.ccu.completeTick = c at htick hstage
  simp only [hmode, State.appendOrigin, htick, hstage, true_and]
  rfl

theorem State.completeTick_priming (h : s.mode = .priming) : s.completeTick.stk = s.stk
    ∧ s.completeTick.mdc = { mode := .priming, countdown := s.mdc.countdown - 1 }
    ∧ s.completeTick.ccu.stage = if s.mdc.countdown - 1 = 0 then .primingEnd else .none := by
  have hmode : s.mdc.mode = .priming := h
  unfold State.completeTick
  generalize s.ccu.completeTick = c
  simp only [hmode, and_self]

theorem Engine.append_room {e : Engine} (h : e.origins.length < 4) (o : Nat) :
    e.append o = { e with origins := e.origins ++ [o] } := by
  simp only [Engine.append, h, if_true]

/-- With 4 waiting the head is discarded and counted as skipped (R85). -/
theorem Engine.append_full {e : Engine} (h : 4 ≤ e.origins.length) (o : Nat) :
    e.append o = { e with
      origins := e.origins.tail ++ [o], skippedSince := min 65535 (e.skippedSince + 1),
      skippedTotal := min 4294967295 (e.skippedTotal + 1) } := by
  simp only [Engine.append, Nat.not_lt.mpr h, if_false, satInc_eq_min]

/-- At the end of priming the tick count is that of a priming, and nothing waits. -/
theorem State.InStep.at_primingEnd (h : s.InStep) (hstage : s.ccu.stage = .primingEnd) :
    s.stk.origins = [] ∧ s.ccu.tickCount = primingCount s.ccu.ltaShift := by
  obtain ⟨-, -, -, hempty, -, hpriming, hend, -, -⟩ := h
  obtain ⟨hmode, hcount⟩ := hend hstage
  have hticks := hpriming hmode
  rw [hcount] at hticks
  exact ⟨hempty (by rw [hmode]; nofun), hticks⟩

end

/-- Settles O15: a completion in each mode, and the end of priming from the run's invariant. -/
theorem tickCompletionCountsDownOrAppends : Obligations.TickCompletionCountsDownOrAppends := by
  refine ⟨fun s hstage hround => ⟨_, exec_tickCompletion hstage hround, ?_⟩, fun s hstage hround horder => ?_⟩
  · obtain ⟨c, e, m, heq⟩ := s.completeTick_eq
    refine ⟨fun hl hroom => ?_, fun hl hfull => ?_, fun hl => ?_, State.completeTick_priming, ?_⟩
    · obtain ⟨-, -, hstk⟩ := State.completeTick_listening hl
      rw [hstk, Engine.append_room hroom]
    · obtain ⟨-, -, hstk⟩ := State.completeTick_listening hl
      rw [hstk, Engine.append_full hfull]
    · obtain ⟨hmdc, hnone, -⟩ := State.completeTick_listening hl
      exact ⟨hmdc, hnone⟩
    · rw [heq]
      exact ⟨rfl, rfl, rfl, rfl, rfl, rfl, rfl, rfl⟩
  · obtain ⟨hstep, -⟩ := State.runInOrder_iff.mp horder
    obtain ⟨hempty, hticks⟩ := hstep.at_primingEnd hstage
    have horigin : s.ccu.tickCount - 1 - 240 = max 256 (2 ^ s.ccu.ltaShift) - 241 := by
      rw [hticks, Nat.sub_sub]
      rfl
    have hnone : s.stk.origins.length < 4 := by rw [hempty]; decide
    rw [exec_primingEnd hstage hround]
    simp only [State.endPriming, State.appendOrigin, Config.originLag, Engine.append_room hnone, horigin, hempty,
      List.nil_append]

end Sys2Proof.Machine

/-! PROOFS. PPS edges, the marks and timeouts of the timebase's own, and the schedule of a second (R42 to R55). -/

namespace Sys2Proof.Machine

/-! ### What a PPS edge is -/

section
variable {s : State}

theorem State.ppsEdge_free (h : s.tbu.state = .free) : s.ppsEdge = { s with tbu := { s.tbu with
    ppsEdges := min 4294967295 (s.tbu.ppsEdges + 1), state := .acquiring, lockStreak := 0, counter := 0,
    label := { s.tbu.label with
      quality := if s.tbu.position = s.tbu.issueAt s.tbu.sampleIndex then .acquiring
        else s.tbu.label.quality } } } := by
  simp only [State.ppsEdge, h, Timebase.enter_eq, Timebase.restartMeasurement, satInc_eq_min]
  rfl

/-- An edge in ACQUIRING below the window (R48). -/
theorem State.ppsEdge_rejected (h : s.tbu.state = .acquiring) (hlow : s.tbu.counter < 16382362) :
    s.ppsEdge = { s with tbu := { s.tbu with
      ppsEdges := min 4294967295 (s.tbu.ppsEdges + 1), lockStreak := 0, counter := 0,
      rejects := min 4294967295 (s.tbu.rejects + 1) } } := by
  simp only [State.ppsEdge, h, if_pos (show s.tbu.counter < Config.windowLow from hlow),
    Timebase.restartMeasurement, satInc_eq_min]

/-- An edge in the window that does not end the streak (R48). -/
theorem State.ppsEdge_accepted (h : s.tbu.state = .acquiring) (hlow : 16382362 ≤ s.tbu.counter)
    (hstreak : s.tbu.lockStreak < 3) : s.ppsEdge = { s with tbu := { s.tbu with
      ppsEdges := min 4294967295 (s.tbu.ppsEdges + 1), cRef := s.tbu.counter, counter := 0,
      lockStreak := s.tbu.lockStreak + 1 } } := by
  have hnot : ¬ s.tbu.counter < Config.windowLow := Nat.not_lt.mpr hlow
  have hmore : s.tbu.lockStreak + 1 < 4 := Nat.succ_lt_succ hstreak
  simp only [State.ppsEdge, h, if_neg hnot, if_pos hmore, Timebase.acceptAcquiring, satInc_eq_min]

/-- The fourth edge in the window is the lock mark (R50). -/
theorem State.ppsEdge_lock (h : s.tbu.state = .acquiring) (hlow : 16382362 ≤ s.tbu.counter)
    (hstreak : s.tbu.lockStreak = 3) : s.ppsEdge = State.mark true { s with tbu := { s.tbu with
      ppsEdges := min 4294967295 (s.tbu.ppsEdges + 1), state := .locked, cRef := s.tbu.counter, counter := 0,
      lockStreak := 4, locks := min 4294967295 (s.tbu.locks + 1) } } := by
  have hnot : ¬ s.tbu.counter < Config.windowLow := Nat.not_lt.mpr hlow
  simp only [State.ppsEdge, h, if_neg hnot, hstreak, Timebase.acceptAcquiring, Timebase.enterLocked, satInc_eq_min]
  rfl

/-- An edge below the window of LOCKED or HOLDOVER (R52). -/
theorem State.ppsEdge_outlier (h : s.tbu.state = .locked ∨ s.tbu.state = .holdover)
    (hearly : s.tbu.counter + 1638 < s.tbu.cRef) : s.ppsEdge = { s with tbu := { s.tbu with
      ppsEdges := min 4294967295 (s.tbu.ppsEdges + 1), outliers := min 4294967295 (s.tbu.outliers + 1) } } := by
  rcases h with h | h <;>
    simp only [State.ppsEdge, h, Timebase.early, decide_eq_true_eq, hearly, if_true, Timebase.outlier, satInc_eq_min]

/-- The mark of LOCKED (R51). -/
theorem State.ppsEdge_locked (h : s.tbu.state = .locked) (hlow : s.tbu.cRef ≤ s.tbu.counter + 1638) :
    s.ppsEdge = State.mark false { s with tbu := { s.tbu with
      ppsEdges := min 4294967295 (s.tbu.ppsEdges + 1), cRef := max 16382362 (min 16385638 s.tbu.counter),
      counter := 0 } } := by
  simp only [State.ppsEdge, h, Timebase.early, decide_eq_true_eq, Nat.not_lt.mpr hlow, if_false, Timebase.acceptLocked,
    clampNat_eq (show Config.windowLow ≤ Config.windowHigh by decide), satInc_eq_min]

/-- The return from HOLDOVER (R55). -/
theorem State.ppsEdge_return (h : s.tbu.state = .holdover) (hlow : s.tbu.cRef ≤ s.tbu.counter + 1638) :
    s.ppsEdge = State.mark true { s with tbu := { s.tbu with
      ppsEdges := min 4294967295 (s.tbu.ppsEdges + 1), state := .locked, counter := 0 } } := by
  simp only [State.ppsEdge, h, Timebase.early, decide_eq_true_eq, Nat.not_lt.mpr hlow, if_false,
    Timebase.returnToLocked, satInc_eq_min]

end

/-- Settles O16: the edges that are no marks. -/
theorem ppsEdgeOutsideMarks : Obligations.PpsEdgeOutsideMarks := by
  intro s
  refine ⟨fun h => ?_, fun h hlow => ?_, fun h hlow _ hstreak => ?_, fun h hearly => ?_⟩
  · exact congrArg Host.Outcome.next (State.ppsEdge_free h)
  · exact congrArg Host.Outcome.next (State.ppsEdge_rejected h hlow)
  · exact congrArg Host.Outcome.next (State.ppsEdge_accepted h hlow hstreak)
  · exact congrArg Host.Outcome.next (State.ppsEdge_outlier h hearly)

/-- Settles O17: each of the three marks begins its second. -/
theorem ppsMarkBeginsASecond : Obligations.PpsMarkBeginsASecond := by
  rintro s edges hposition rfl
  refine ⟨fun h hlow _ hstreak => ⟨_, rfl, ?_⟩, fun h hlow _ => ⟨_, rfl, ?_⟩, fun h hlow _ => ⟨_, rfl, ?_⟩⟩
  · rw [State.ppsEdge_lock h hlow hstreak]
    exact State.mark_beginsSecond _ _ true hposition rfl
  · rw [State.ppsEdge_locked h hlow]
    refine State.mark_beginsSecond _ _ false hposition ?_
    simp [h]
  · rw [State.ppsEdge_return h hlow]
    exact State.mark_beginsSecond _ _ true hposition rfl

/-! ### Timeouts and marks of the timebase's own -/

section
variable {s : State} {n : Nat}

/-- In which state an event of the timebase comes, and when. -/
theorem State.acquiringTimeout_comesIn (h : s.comesIn .acquiringTimeout n) :
    s.tbu.state = .acquiring ∧ n = 16385638 - s.tbu.counter := by
  have hdue := h.1
  simp only [State.dueIn] at hdue
  split at hdue
  next hstate => exact ⟨hstate, (Option.some.inj hdue).symm⟩
  next => cases hdue

theorem State.freeRunRollover_comesIn (h : s.comesIn .freeRunRollover n) :
    (s.tbu.state = .free ∨ s.tbu.state = .acquiring) ∧ n = s.tbu.cInUse - s.tbu.position := by
  have hdue := h.1
  simp only [State.dueIn] at hdue
  split at hdue
  next hstate => exact ⟨by simpa [Timebase.selfEnding] using hstate, (Option.some.inj hdue).symm⟩
  next => cases hdue

theorem State.holdoverEntry_comesIn (h : s.comesIn .holdoverEntry n) :
    s.tbu.state = .locked ∧ n = s.tbu.cRef + 1638 - s.tbu.counter := by
  have hdue := h.1
  simp only [State.dueIn] at hdue
  split at hdue
  next hstate => exact ⟨hstate, (Option.some.inj hdue).symm⟩
  next => cases hdue

theorem State.holdoverExpiry_comesIn (h : s.comesIn .holdoverExpiry n) : s.tbu.state = .holdover := by
  have hdue := h.1
  simp only [State.dueIn] at hdue
  split at hdue
  next hstate => exact hstate
  next => cases hdue

theorem State.acquiringTimeout_eq (s : State) (n : Nat) : (s.elapse n).acquiringTimeout
    = { s.elapse n with tbu := { s.tbu.elapse n with
        state := .free, lockStreak := 0, counter := 0,
        label := { s.tbu.label with
          quality := if s.tbu.position + n = s.tbu.issueAt s.tbu.sampleIndex then .free
            else s.tbu.label.quality } } } := by
  rw [State.acquiringTimeout, Timebase.enter_eq]
  rfl

theorem State.enterHoldover_eq (s : State) : s.enterHoldover = State.mark true { s with tbu := { s.tbu with
    state := .holdover, counter := 1638, missed := 1, holdovers := min 4294967295 (s.tbu.holdovers + 1) } } := by
  simp only [State.enterHoldover, satInc_eq_min]

/-- Another synthetic mark below the limit, and FREE at it (R54). -/
theorem State.expireHoldover_again (h : s.tbu.missed < s.tbu.holdoverLimit) : s.expireHoldover
    = State.mark false { s with tbu := { s.tbu with counter := 1638, missed := s.tbu.missed + 1 } } := if_pos h

theorem State.expireHoldover_ends (h : s.tbu.holdoverLimit ≤ s.tbu.missed) : s.expireHoldover
    = State.mark false { s with tbu := { s.tbu with state := .free, lockStreak := 0, counter := 0 } } :=
  if_neg (Nat.not_lt.mpr h)

end

/-- Settles O18: each event at its instant, and the second that its mark begins. -/
theorem timebaseMarksAndTimeouts : Obligations.TimebaseMarksAndTimeouts := by
  intro s n
  refine ⟨fun h => ?_, fun h hposition => ?_, fun h hposition => ?_, fun h hposition hmissed => ?_,
    fun h hposition hmissed => ?_⟩
  · obtain ⟨-, hn⟩ := State.acquiringTimeout_comesIn h
    refine ⟨?_, fun _ => by omega⟩
    rw [← State.acquiringTimeout_eq]
    exact congrArg Host.Outcome.next (State.comeAbout_of_comesIn h _)
  · obtain ⟨hstate, hn⟩ := State.freeRunRollover_comesIn h
    refine ⟨⟨_, congrArg Host.Outcome.next (State.comeAbout_of_comesIn h _), ?_⟩, fun _ => by omega⟩
    exact State.mark_beginsSecond _ _ false hposition (if_pos hstate).symm
  · obtain ⟨hstate, hn⟩ := State.holdoverEntry_comesIn h
    refine ⟨⟨_, congrArg Host.Outcome.next (State.comeAbout_of_comesIn h _), ?_⟩, fun _ => by omega⟩
    rw [State.enterHoldover_eq]
    exact State.mark_beginsSecond _ _ true hposition rfl
  · have hstate := State.holdoverExpiry_comesIn h
    refine ⟨_, congrArg Host.Outcome.next (State.comeAbout_of_comesIn h _), ?_⟩
    rw [State.expireHoldover_again (s := s.elapse n) hmissed]
    refine State.mark_beginsSecond _ _ false hposition ?_
    simp [hstate]
  · refine ⟨_, congrArg Host.Outcome.next (State.comeAbout_of_comesIn h _), ?_⟩
    rw [State.expireHoldover_ends (s := s.elapse n) hmissed]
    exact State.mark_beginsSecond _ _ false hposition rfl

/-! ### The schedule of a second -/

theorem Timebase.issueAt_succ (t : Timebase) (i : Nat) :
    t.issueAt (i + 1) = t.issueAt i + if i < t.r then t.q + 1 else t.q := by
  have hmul : (i + 1) * t.q = i * t.q + t.q := Nat.succ_mul i t.q
  unfold Timebase.issueAt
  split <;> omega

/-- Settles O19, by the division that q and r come from. -/
theorem scheduleFillsTheSecond : Obligations.ScheduleFillsTheSecond := by
  intro t hq hr
  have hdivision : fsOf t.fsInForce * t.q + t.cInUse % fsOf t.fsInForce = t.cInUse := by
    rw [hq]
    exact Nat.div_add_mod _ _
  have hrest : t.r = t.cInUse % fsOf t.fsInForce := by
    rw [hr, Nat.mul_comm]
    omega
  have hlt : t.r < fsOf t.fsInForce := by
    rw [hrest]
    exact Nat.mod_lt _ (fsOf_pos _)
  refine ⟨hlt, by simp [Timebase.issueAt], ?_, t.issueAt_succ⟩
  rw [Timebase.issueAt, Nat.min_eq_right hlt.le, hrest]
  exact hdivision

end Sys2Proof.Machine

/-! PROOFS. SET TIME (R56), TABLE POINTER (R65), SET EXCERPT (R152), SET ATTENTION (R187) and the requests of the
conditioner (R18 to R22, R37): the fields of their bodies, what the own work of each does, and their obligations. -/

namespace Sys2Proof.Machine

/-- A request that its block refuses for a field changes nothing but the port. -/
theorem exec_badField {s : State} (h : s.ready) (r : Request) (tag : Byte) {body : List Byte}
    (hl : r.lengthOk body = true) (hm : r.modeOk s.mode = true) (hb : (r.needsUnlocked && s.tts.locked) = false)
    (hwork : r.apply body s.counted = answered (s.counted, [statusBadField])) :
    exec (r.command tag body) s = .next { s with cpt := s.cpt.replied r.kind tag [0x03] } :=
  exec_request_replied (t := s.counted) h r tag hl hm hb hwork rfl

theorem field_le_four_of_lt {n : Nat} (h : n < 2 ^ 32) : field (le 4 n) 0 4 = n :=
  (field_le_nil 4 n).trans (Nat.mod_eq_of_lt h)

/-! ### SET TIME -/

section
variable (action : Byte) {value limit : Nat} {s : State}

/-- The body of a SET TIME: the seconds action, its value and the holdover limit (R190). -/
def setTimeBody (action : Byte) (value limit : Nat) : List Byte := action :: (le 4 value ++ le 2 limit)

theorem field_setTimeBody_action : field (setTimeBody action value limit) 0 1 = action.toNat :=
  field_cons_zero _ _

theorem field_setTimeBody_value (h : value < 2 ^ 32) : field (setTimeBody action value limit) 1 4 = value :=
  field_le_four_of_lt h

theorem field_setTimeBody_limit (h : limit < 65536) : field (setTimeBody action value limit) 5 2 = limit :=
  field_le_two_of_lt h

theorem pendingAfter_eq_none {n : Nat} (h : 2 < n) (value : Nat) (old : Option Nat) :
    pendingAfter n value old = none := by
  obtain ⟨k, rfl⟩ := Nat.exists_eq_add_of_le' h
  rfl

theorem applySetTime_of_action {body : List Byte} {p : Option Nat}
    (h : pendingAfter (field body 0 1) (field body 1 4) s.tbu.pendingSeconds = some p) :
    applySetTime body s = ({ s with
      tbu := { s.tbu with pendingSeconds := p, holdoverLimit := max 1 (min 3600 (field body 5 2)) } },
      [0x00, flag p.isSome] ++ le 4 (p.getD 0) ++ le 2 (max 1 (min 3600 (field body 5 2)))
        ++ le 4 s.tbu.seconds ++ [s.tbu.state.code]) := by
  simp only [applySetTime, h, clampNat_eq (show 1 ≤ 3600 by decide), statusOk]

theorem applySetTime_of_no_action {body : List Byte} (h : 2 < field body 0 1) :
    applySetTime body s = (s, [statusBadField]) := by
  simp only [applySetTime, pendingAfter_eq_none h]

end

/-- Settles O21: the three actions, and any other. -/
theorem setTimeStoresPendingSecondsAndLimit : Obligations.SetTimeStoresPendingSecondsAndLimit := by
  rintro s tag action value limit lim p hready hvalue hlimit rfl
  refine ⟨fun haction => ?_, fun hother => ?_⟩
  · have hpending : pendingAfter (field (setTimeBody action value limit) 0 1)
        (field (setTimeBody action value limit) 1 4) s.counted.tbu.pendingSeconds = some p := by
      rw [field_setTimeBody_action, field_setTimeBody_value action hvalue]
      rcases haction with ⟨rfl, rfl⟩ | ⟨rfl, rfl⟩ | ⟨rfl, rfl⟩ <;> rfl
    have hwork := applySetTime_of_action hpending
    rw [field_setTimeBody_limit action hlimit] at hwork
    exact exec_request_replied hready .setTime tag rfl rfl rfl (congrArg answered hwork) rfl
  · exact exec_badField hready .setTime tag rfl rfl rfl (congrArg answered (applySetTime_of_no_action
      (hother.trans_eq (field_setTimeBody_action action (value := value) (limit := limit)).symm)))

/-! ### TABLE POINTER -/

section
variable {s : State} {body : List Byte}

theorem PointerMode.ofCode_code (m : PointerMode) : PointerMode.ofCode m.code.toNat = some m := by
  cases m <;> rfl

theorem PointerMode.ofCode_eq_none {n : Nat} (h : 2 ≤ n) : PointerMode.ofCode n = none := by
  obtain ⟨k, rfl⟩ := Nat.exists_eq_add_of_le' h
  rfl

theorem applyTablePointer_stored {mode : PointerMode} (hmode : PointerMode.ofCode (field body 3 1) = some mode)
    (hnode : field body 0 2 < 4096) (hchannel : field body 2 1 < 48) :
    applyTablePointer body s = ({ s with
      tts := { s.tts with
        pointer := { node := field body 0 2, channel := field body 2 1, mode := mode } } },
      [0x00] ++ le 2 (field body 0 2) ++ [byte (field body 2 1), mode.code]) := by
  simp only [applyTablePointer, hmode, hnode, hchannel, and_self, if_true, Pointer.bytes, statusOk]
  rfl

theorem applyTablePointer_refused (h : 4096 ≤ field body 0 2 ∨ 48 ≤ field body 2 1 ∨ 2 ≤ field body 3 1) :
    applyTablePointer body s = (s, [statusBadField]) := by
  unfold applyTablePointer
  split
  next => rfl
  next hmode =>
    have hfields : ¬ (field body 0 2 < 4096 ∧ field body 2 1 < 48) := by
      rintro ⟨hnode, hchannel⟩
      rcases h with h | h | h
      · omega
      · omega
      · rw [PointerMode.ofCode_eq_none h] at hmode
        cases hmode
    rw [if_neg hfields]

end

/-- Settles O22: fields in range, and any other. -/
theorem tablePointerIsStored : Obligations.TablePointerIsStored := by
  intro s tag node channel hready hnode hchannel
  have hfields (m : Byte) : field (le 2 node ++ [byte channel, m]) 0 2 = node
      ∧ field (le 2 node ++ [byte channel, m]) 2 1 = channel
      ∧ field (le 2 node ++ [byte channel, m]) 3 1 = m.toNat :=
    ⟨field_le_two_of_lt hnode, byte_toNat_of_lt hchannel, field_cons_zero m []⟩
  refine ⟨fun mode hn hk => ?_, fun mode hrange => ?_⟩
  · obtain ⟨hfnode, hfchannel, hfmode⟩ := hfields mode.code
    have hwork := applyTablePointer_stored (s := s.counted) (hfmode ▸ mode.ofCode_code) (hfnode.symm ▸ hn)
      (hfchannel.symm ▸ hk)
    rw [hfnode, hfchannel] at hwork
    exact exec_request_replied hready .tablePointer tag rfl rfl rfl (congrArg answered hwork) rfl
  · obtain ⟨hfnode, hfchannel, hfmode⟩ := hfields mode
    refine exec_badField hready .tablePointer tag rfl rfl rfl (congrArg answered (applyTablePointer_refused ?_))
    rwa [hfnode, hfchannel, hfmode]

/-! ### SET EXCERPT and SET ATTENTION -/

theorem ExcerptMode.ofCode_code (m : ExcerptMode) : ExcerptMode.ofCode m.code.toNat = some m := by
  cases m <;> rfl

theorem ExcerptMode.ofCode_eq_none {n : Nat} (h : 4 ≤ n) : ExcerptMode.ofCode n = none := by
  obtain ⟨k, rfl⟩ := Nat.exists_eq_add_of_le' h
  rfl

theorem applySetExcerpt_stored {s : State} {body : List Byte} {mode : ExcerptMode}
    (hmode : ExcerptMode.ofCode (field body 4 1) = some mode) :
    applySetExcerpt body s = ({ s with exu := { s.exu with
        pre := min 1023 (field body 0 2), post := max 1 (min 2047 (field body 2 2)), mode := mode,
        allowanceSetting := field body 5 2 } },
      [0x00] ++ le 2 (min 1023 (field body 0 2)) ++ le 2 (max 1 (min 2047 (field body 2 2))) ++ [mode.code]
        ++ le 2 (field body 5 2) ++ le 2 s.exu.allowanceInForce ++ le 2 s.exu.allowanceLeft) := by
  simp only [applySetExcerpt, hmode, clampNat_eq (show 0 ≤ 1023 by decide), clampNat_eq (show 1 ≤ 2047 by decide),
    Nat.zero_max, statusOk]

theorem applySetExcerpt_refused {s : State} {body : List Byte} (h : 4 ≤ field body 4 1) :
    applySetExcerpt body s = (s, [statusBadField]) := by
  simp only [applySetExcerpt, ExcerptMode.ofCode_eq_none h]

/-- Settles O45: the two requests' fields with their clamps. -/
theorem setExcerptAndSetAttention : Obligations.SetExcerptAndSetAttention := by
  intro s tag hready
  refine ⟨fun pre post allowance mode hpre hpost hallowance => ?_, fun pre post allowance mode hmode => ?_,
    fun value threshold hthreshold => ?_⟩
  · have hwork := applySetExcerpt_stored (s := s.counted)
      (body := le 2 pre ++ le 2 post ++ [mode.code] ++ le 2 allowance) mode.ofCode_code
    have hfpre : field (le 2 pre ++ le 2 post ++ [mode.code] ++ le 2 allowance) 0 2 = pre := field_le_two_of_lt hpre
    have hfpost : field (le 2 pre ++ le 2 post ++ [mode.code] ++ le 2 allowance) 2 2 = post :=
      field_le_two_of_lt hpost
    have hfallowance : field (le 2 pre ++ le 2 post ++ [mode.code] ++ le 2 allowance) 5 2 = allowance :=
      field_le_two_of_lt hallowance
    rw [hfpre, hfpost, hfallowance] at hwork
    exact exec_request_replied hready .setExcerpt tag rfl rfl rfl (congrArg answered hwork) rfl
  · exact exec_badField hready .setExcerpt tag rfl rfl rfl (congrArg answered (applySetExcerpt_refused hmode))
  · have hwork : applySetAttention [value] s.counted = ({ s.counted with rpq := { s.rpq with
          threshold := threshold, attn := decide (threshold ≤ s.rpq.summaries.length) } },
        [0x00, byte threshold, byte s.rpq.summaries.length]) := by
      have hfield : field [value] 0 1 = value.toNat := field_cons_zero value []
      rw [hthreshold, ← clampNat_eq (show 1 ≤ 64 by decide), ← hfield]
      rfl
    exact exec_request_replied hready .setAttention tag rfl rfl rfl (congrArg answered hwork) rfl

/-! ### SET ACQUISITION -/

section
variable {s : State}

theorem applySetAcquisition_stored {body : List Byte} {rate dec : Fin 4} (hrate : field body 0 1 = rate.val)
    (hdec : field body 1 1 = dec.val) {sta lta : Nat} (hsta : field body 2 1 = sta) (hlta : field body 3 1 = lta)
    (hrange : 1 ≤ sta ∧ sta ≤ 7 ∧ 4 ≤ lta ∧ lta ≤ 14 ∧ sta + 3 ≤ lta) :
    applySetAcquisition body s = ({ s with
      ccu := { s.ccu with decimation := dec, staShift := sta, ltaShift := lta }
      tbu := { s.tbu with fsSetting := rate } },
      [0x00, byte rate.val, byte dec.val, byte sta, byte lta]) := by
  have hcodes : field body 0 1 < 4 ∧ field body 1 1 < 4 := ⟨hrate ▸ rate.isLt, hdec ▸ dec.isLt⟩
  simp only [applySetAcquisition, dif_pos hcodes, hsta, hlta, if_pos hrange, statusOk]
  simp only [hrate, hdec]

theorem applySetAcquisition_refused {body : List Byte} (h : ¬ (field body 0 1 < 4 ∧ field body 1 1 < 4)
    ∨ ¬ (1 ≤ field body 2 1 ∧ field body 2 1 ≤ 7 ∧ 4 ≤ field body 3 1 ∧ field body 3 1 ≤ 14
      ∧ field body 2 1 + 3 ≤ field body 3 1)) : applySetAcquisition body s = (s, [statusBadField]) := by
  unfold applySetAcquisition
  dsimp only
  split
  next hcodes => exact if_neg (h.resolve_left (not_not.mpr hcodes))
  next => rfl

/-! ### SET CHANNEL and CHANNEL REPORT -/

theorem applySetChannel_of_channel {body : List Byte} {k : Fin 48} (h : field body 0 1 = k.val) :
    applySetChannel body s = ({ s with ccu := { s.ccu with
        channels := s.ccu.channels.set k.val { s.ccu.channels[k] with record := .ofBody body } } },
      0x00 :: byte k.val :: (ChannelRecord.ofBody body).bytes) := by
  have hlt : field body 0 1 < 48 := h ▸ k.isLt
  simp only [applySetChannel, dif_pos hlt, statusOk]
  simp only [h]
  rfl

theorem applySetChannel_of_no_channel {body : List Byte} (h : 48 ≤ field body 0 1) :
    applySetChannel body s = (s, [statusBadField]) := dif_neg h.not_gt

theorem applyChannelReport_of_channel {body : List Byte} {k : Fin 48} (h : field body 0 1 = k.val) :
    applyChannelReport body s = ({ s with ccu := if flagBit body 1 0 = true then
        { s.ccu with channels := s.ccu.channels.set k.val s.ccu.channels[k].clearHealth } else s.ccu },
      [0x00] ++ s.channelSnapshot k) := by
  have hlt : field body 0 1 < 48 := h ▸ k.isLt
  have hk : (⟨field body 0 1, hlt⟩ : Fin 48) = k := Fin.ext h
  simp only [applyChannelReport, dif_pos hlt, hk, statusOk]
  simp only [h]
  split <;> rfl

theorem applyChannelReport_of_no_channel {body : List Byte} (h : 48 ≤ field body 0 1) :
    applyChannelReport body s = (s, [statusBadField]) := dif_neg h.not_gt

end

/-- The flags byte of a record in a reply: enabled in bit 0, member in bit 1. -/
theorem ChannelRecord.flags_eq (r : ChannelRecord) : flag r.enabled ||| (flag r.member <<< 1)
    = byte ((if r.enabled = true then 1 else 0) + (if r.member = true then 2 else 0)) := by
  cases r.enabled <;> cases r.member <;> rfl

/-- The body of a SET CHANNEL (R190). -/
def setChannelBody (number flags : Byte) (gain weight trigger freeze noise stale recovery : Nat) : List Byte :=
  [number, flags] ++ le 2 gain ++ [byte weight, byte trigger, byte freeze] ++ le 2 noise
    ++ [byte stale, byte recovery]

/-- The record that the body carries, each value clamped to its range (R18). -/
theorem ofBody_setChannelBody (number flags : Byte) {gain weight trigger freeze noise stale recovery : Nat}
    (hgain : gain < 65536) (hweight : weight < 256) (htrigger : trigger < 256) (hfreeze : freeze < 256)
    (hnoise : noise < 65536) (hstale : stale < 256) (hrecovery : recovery < 256) :
    ChannelRecord.ofBody (setChannelBody number flags gain weight trigger freeze noise stale recovery)
      = { enabled := flags.getLsbD 0, member := flags.getLsbD 1, gain := gain, weight := min 15 weight,
          trigger := trigger, freeze := freeze, noise := noise, staleLimit := max 1 stale,
          recovery := max 1 recovery } := by
  have hfields : ChannelRecord.ofBody (setChannelBody number flags gain weight trigger freeze noise stale recovery)
      = { enabled := flags.getLsbD 0, member := flags.getLsbD 1, gain := field (le 2 gain) 0 2,
          weight := clampNat 0 15 (byte weight).toNat, trigger := (byte trigger).toNat,
          freeze := (byte freeze).toNat, noise := field (le 2 noise) 0 2,
          staleLimit := clampNat 1 255 (byte stale).toNat,
          recovery := clampNat 1 255 (byte recovery).toNat } := rfl
  have hbyte {v : Nat} (hv : v < 256) : clampNat 1 255 v = max 1 v := by
    rw [clampNat_eq (by omega), min_eq_right (Nat.le_of_lt_succ hv)]
  rw [hfields, byte_toNat_of_lt hweight, byte_toNat_of_lt htrigger, byte_toNat_of_lt hfreeze,
    byte_toNat_of_lt hstale, byte_toNat_of_lt hrecovery, field_le_two_of_lt hgain, field_le_two_of_lt hnoise,
    hbyte hstale, hbyte hrecovery, clampNat_eq (by omega), Nat.zero_max]

/-- Settles O57: the three requests, each with its refusals. -/
theorem conditionerRequests : Obligations.ConditionerRequests := by
  intro s tag hready
  refine ⟨fun rate dec sta lta hmode hsta hsta7 hlta hlta14 hsum => ?_, fun rate dec sta lta hmode hrange => ?_,
    fun rate dec sta lta hmode => ?_,
    fun k flags gain weight trigger freeze noise stale recovery rec hgain hweight htrigger hfreeze hnoise hstale
      hrecovery hrec => ?_, fun number body hnumber hlength => ?_, fun k flags => ?_, fun number flags hnumber => ?_⟩
  · have hstandby : Request.setAcquisition.modeOk s.mode = true := by rw [hmode]; rfl
    have hwork := applySetAcquisition_stored (s := s.counted)
      (body := [byte rate.val, byte dec.val, byte sta, byte lta]) (byte_toNat_of_lt (by omega))
      (byte_toNat_of_lt (by omega)) (byte_toNat_of_lt (show sta < 256 by omega))
      (byte_toNat_of_lt (show lta < 256 by omega)) ⟨hsta, hsta7, hlta, hlta14, hsum⟩
    exact exec_request_replied hready .setAcquisition tag rfl hstandby rfl (congrArg answered hwork) rfl
  · have hstandby : Request.setAcquisition.modeOk s.mode = true := by rw [hmode]; rfl
    refine exec_badField hready .setAcquisition tag rfl hstandby rfl
      (congrArg answered (applySetAcquisition_refused ?_))
    show ¬ (rate.toNat < 4 ∧ dec.toNat < 4) ∨ ¬ (1 ≤ sta.toNat ∧ sta.toNat ≤ 7 ∧ 4 ≤ lta.toNat ∧ lta.toNat ≤ 14
      ∧ sta.toNat + 3 ≤ lta.toNat)
    have hzero : sta = 0 ↔ sta.toNat = 0 := ⟨congrArg BitVec.toNat, fun h => BitVec.eq_of_toNat_eq h⟩
    rw [hzero] at hrange
    omega
  · have hrun : Request.setAcquisition.modeOk s.mode = false := decide_eq_false hmode
    exact exec_wrongMode hready .setAcquisition tag rfl hrun
  · have hnumber : field (setChannelBody (byte k.val) flags gain weight trigger freeze noise stale recovery) 0 1
        = k.val := byte_toNat_of_lt (by omega)
    have hrecord := ofBody_setChannelBody (byte k.val) flags hgain hweight htrigger hfreeze hnoise hstale hrecovery
    have hwork := applySetChannel_of_channel (s := s.counted) hnumber
    rw [hrecord.trans hrec.symm, ChannelRecord.bytes, ChannelRecord.flags_eq] at hwork
    refine (exec_request_replied hready .setChannel tag rfl rfl rfl (congrArg answered hwork) rfl).trans ?_
    subst hrec
    rfl
  · exact exec_badField hready .setChannel tag (beq_iff_eq.mpr (congrArg Nat.succ hlength)) rfl rfl
      (congrArg answered (applySetChannel_of_no_channel (hnumber.trans_eq (field_cons_zero number body).symm)))
  · have hwork := applyChannelReport_of_channel (s := s.counted) (body := [byte k.val, flags]) (k := k)
      (byte_toNat_of_lt (by omega))
    exact exec_request_replied hready .channelReport tag rfl rfl rfl (congrArg answered hwork) rfl
  · exact exec_badField hready .channelReport tag rfl rfl rfl
      (congrArg answered (applyChannelReport_of_no_channel (hnumber.trans_eq (field_cons_zero number [flags]).symm)))

end Sys2Proof.Machine

/-! PROOFS. The walk of the write pointer (R67), BANK SIZE and REGION MAP (R70, R71), and the requests that are refused
before their block sees them (R175). -/

namespace Sys2Proof.Machine

/-! ### One entry of a bank -/

section
variable {b : Bank}

theorem Bank.delay_setDelay_same (h : b.storageWf) (n k : Nat) (v : Byte) : (b.setDelay n k v).delay n k = v :=
  Memory.read_write_same h.1 _ _

theorem Bank.delay_setDelay_other {n k n' k' : Nat} (h : 48 * n' + k' ≠ 48 * n + k) (v : Byte) :
    (b.setDelay n k v).delay n' k' = b.delay n' k' := Memory.read_write_other _ _ h

theorem Bank.region_setRegion_same (h : b.storageWf) (n : Nat) (r : Fin 16) : (b.setRegion n r).region n = r :=
  Memory.read_write_same h.2 _ _

theorem Bank.region_setRegion_other {n m : Nat} (h : m ≠ n) (r : Fin 16) :
    (b.setRegion n r).region m = b.region m := Memory.read_write_other _ _ h

end

/-! ### The pointer -/

/-- The place of the pointer among the 196,608 delays of a bank. -/
def Pointer.place (p : Pointer) : Nat := 48 * p.node + p.channel

/-- The pointer names a delay of a bank. -/
def Pointer.InBank (p : Pointer) : Prop := p.node < 4096 ∧ p.channel < 48

section
variable {p : Pointer}

theorem Pointer.next_mode (p : Pointer) : p.next.mode = p.mode := by
  unfold Pointer.next
  split
  · rfl
  · split <;> rfl

theorem Pointer.next_advance (hmode : p.mode = .advance) (h : p.InBank) :
    p.next.InBank ∧ p.next.place = (p.place + 1) % 196608 := by
  obtain ⟨hnode, hchannel⟩ := h
  unfold Pointer.next Pointer.InBank Pointer.place
  split
  · exact ⟨⟨hnode, by dsimp only; omega⟩, by dsimp only; omega⟩
  · rw [hmode]
    dsimp only
    split <;> omega

theorem Pointer.next_wrap (hmode : p.mode = .wrap) (h : p.InBank) :
    p.next.InBank ∧ p.next.node = p.node ∧ p.next.channel = (p.channel + 1) % 48 := by
  obtain ⟨hnode, hchannel⟩ := h
  unfold Pointer.next Pointer.InBank
  split
  · exact ⟨⟨hnode, by dsimp only; omega⟩, rfl, by dsimp only; omega⟩
  · rw [hmode]
    exact ⟨⟨hnode, Nat.zero_lt_succ 47⟩, rfl, by dsimp only; omega⟩

end

/-! ### The walk -/

/-- Whatever the mode, a walk reaches the delays alone and keeps the pointer's mode. -/
theorem storeDelays_frame (ds : List Byte) : ∀ (p : Pointer) (b : Bank),
    (storeDelays ds p b).2.regions = b.regions ∧ (storeDelays ds p b).2.count = b.count
      ∧ (storeDelays ds p b).1.mode = p.mode := by
  induction ds with
  | nil => exact fun _ _ => ⟨rfl, rfl, rfl⟩
  | cons d ds ih =>
    intro p b
    obtain ⟨hregions, hcount, hmode⟩ := ih p.next (b.setDelay p.node p.channel d)
    exact ⟨hregions, hcount, hmode.trans p.next_mode⟩

/-- In ADVANCE byte i goes to the i-th place behind the pointer. -/
theorem storeDelays_advance (ds : List Byte) : ∀ (p : Pointer) (b : Bank), p.mode = .advance → p.InBank →
    b.storageWf → ds.length ≤ 1024 →
    (storeDelays ds p b).1.InBank ∧ (storeDelays ds p b).1.place = (p.place + ds.length) % 196608
      ∧ ∀ n k i, i < 196608 → 48 * n + k = (p.place + i) % 196608 →
        (storeDelays ds p b).2.delay n k = if i < ds.length then ds.getD i 0 else b.delay n k := by
  induction ds with
  | nil =>
    intro p b _ hp _ _
    refine ⟨hp, ?_, fun n k i _ _ => (if_neg (Nat.not_lt_zero i)).symm⟩
    obtain ⟨hnode, hchannel⟩ := hp
    show 48 * p.node + p.channel = (48 * p.node + p.channel + 0) % 196608
    omega
  | cons d ds ih =>
    intro p b hmode hp hb hlength
    obtain ⟨hnextIn, hnextPlace⟩ := Pointer.next_advance hmode hp
    obtain ⟨hin, hplace, hdelays⟩ := ih p.next (b.setDelay p.node p.channel d) (p.next_mode.trans hmode) hnextIn
      (Bank.setDelay_storageWf hb _ _ _) (Nat.le_of_succ_le hlength)
    rw [List.length_cons] at hlength
    have hbelow : p.place < 196608 := by
      obtain ⟨hnode, hchannel⟩ := hp
      unfold Pointer.place
      omega
    refine ⟨hin, ?_, fun n k i hi hat => ?_⟩
    · show (storeDelays ds p.next (b.setDelay p.node p.channel d)).1.place = _
      rw [hplace, hnextPlace, List.length_cons]
      omega
    · show (storeDelays ds p.next (b.setDelay p.node p.channel d)).2.delay n k = _
      cases i with
      | zero =>
        have hplaceEq : 48 * n + k = p.place := by omega
        rw [hdelays n k 196607 (by omega) (by omega), if_neg (by omega), if_pos (by simp), List.getD_cons_zero,
          Bank.delay, hplaceEq]
        exact Bank.delay_setDelay_same hb _ _ _
      | succ i =>
        have hother : 48 * n + k ≠ 48 * p.node + p.channel := by
          show 48 * n + k ≠ p.place
          omega
        rw [hdelays n k i (by omega) (by omega), Bank.delay_setDelay_other hother, List.getD_cons_succ]
        simp only [List.length_cons, Nat.add_lt_add_iff_right]

/-- In WRAP the node stays, and each of its channels keeps the last byte written to it. -/
theorem storeDelays_wrap (ds : List Byte) : ∀ (p : Pointer) (b : Bank), p.mode = .wrap → p.InBank →
    b.storageWf →
    (storeDelays ds p b).1.InBank ∧ (storeDelays ds p b).1.node = p.node
      ∧ (storeDelays ds p b).1.channel = (p.channel + ds.length) % 48
      ∧ (∀ i, i < ds.length → ds.length ≤ i + 48 →
        (storeDelays ds p b).2.delay p.node ((p.channel + i) % 48) = ds.getD i 0)
      ∧ (∀ n k, k < 48 → (n = p.node → ∀ i, i < ds.length → (p.channel + i) % 48 ≠ k) →
        (storeDelays ds p b).2.delay n k = b.delay n k) := by
  induction ds with
  | nil =>
    intro p b _ hp _
    exact ⟨hp, rfl, (Nat.mod_eq_of_lt hp.2).symm, fun i hi => absurd hi (Nat.not_lt_zero i), fun _ _ _ _ => rfl⟩
  | cons d ds ih =>
    intro p b hmode hp hb
    obtain ⟨hnextIn, hnextNode, hnextChannel⟩ := Pointer.next_wrap hmode hp
    obtain ⟨hin, hnode, hchannel, hlast, hkept⟩ := ih p.next (b.setDelay p.node p.channel d)
      (p.next_mode.trans hmode) hnextIn (Bank.setDelay_storageWf hb _ _ _)
    rw [hnextNode] at hnode hlast hkept
    have hbelow : p.channel < 48 := hp.2
    refine ⟨hin, hnode, ?_, fun i hi hwithin => ?_, fun n k hk hmissed => ?_⟩
    · show (storeDelays ds p.next (b.setDelay p.node p.channel d)).1.channel = _
      rw [hchannel, hnextChannel, List.length_cons]
      omega
    · show (storeDelays ds p.next (b.setDelay p.node p.channel d)).2.delay p.node _ = _
      rw [List.length_cons] at hi hwithin
      cases i with
      | zero =>
        have hat : (p.channel + 0) % 48 = p.channel := Nat.mod_eq_of_lt hbelow
        rw [hat, hkept p.node p.channel hbelow (fun _ i hi => by omega), List.getD_cons_zero]
        exact Bank.delay_setDelay_same hb _ _ _
      | succ i =>
        have hat : (p.channel + (i + 1)) % 48 = (p.next.channel + i) % 48 := by omega
        rw [hat, hlast i (by omega) (by omega), List.getD_cons_succ]
    · show (storeDelays ds p.next (b.setDelay p.node p.channel d)).2.delay n k = _
      rw [hkept n k hk fun hn i hi => ?later, Bank.delay_setDelay_other ?first]
      case later =>
        have := hmissed hn (i + 1) (by rw [List.length_cons]; omega)
        omega
      case first =>
        intro hsame
        have := hmissed (by omega) 0 (by simp)
        omega

/-- Settles O24: the walk in each mode. -/
theorem storedDelaysFollowThePointer : Obligations.StoredDelaysFollowThePointer := by
  intro ds p q b c hnode hchannel hwf hlength hstored
  obtain ⟨hregions, hcount, hmode⟩ := storeDelays_frame ds p b
  have hq : (storeDelays ds p b).1 = q := congrArg Prod.fst hstored
  have hc : (storeDelays ds p b).2 = c := congrArg Prod.snd hstored
  rw [hc] at hregions hcount
  rw [hq] at hmode
  have hadvance (h : p.mode = .advance) := storeDelays_advance ds p b h ⟨hnode, hchannel⟩ hwf hlength
  have hwrap (h : p.mode = .wrap) := storeDelays_wrap ds p b h ⟨hnode, hchannel⟩ hwf
  rw [hq, hc] at hadvance hwrap
  have hin : q.InBank := by
    cases h : p.mode with
    | advance => exact (hadvance h).1
    | wrap => exact (hwrap h).1
  refine ⟨hregions, hcount, hmode, hin.1, hin.2, fun h => ?_, fun h => ?_⟩
  · obtain ⟨-, hplace, hdelays⟩ := hadvance h
    exact ⟨hplace, fun n k i _ _ hi hat => hdelays n k i hi hat⟩
  · obtain ⟨-, hsame, hmoved, hlast, hkept⟩ := hwrap h
    exact ⟨hsame, hmoved, hlast, fun k hk hmissed => hkept p.node k hk fun _ => hmissed,
      fun n k hn hk => hkept n k hk fun heq => absurd heq hn⟩

/-! ### REGION MAP -/

theorem mapRegions_succ (r : Fin 16) (first n : Nat) (b : Bank) :
    mapRegions r first (n + 1) b = (mapRegions r first n b).setRegion (first + n) r := by
  simp only [mapRegions, List.range_succ, List.foldl_append, List.foldl_cons, List.foldl_nil]

theorem mapRegions_frame (r : Fin 16) (first n : Nat) (b : Bank) :
    (mapRegions r first n b).delays = b.delays ∧ (mapRegions r first n b).count = b.count := by
  induction n with
  | zero => exact ⟨rfl, rfl⟩
  | succ n ih =>
    rw [mapRegions_succ]
    exact ih

theorem mapRegions_region (r : Fin 16) (first n : Nat) {b : Bank} (h : b.storageWf) (m : Nat) :
    (mapRegions r first n b).region m = if first ≤ m ∧ m < first + n then r else b.region m := by
  induction n with
  | zero => exact (if_neg (by omega)).symm
  | succ n ih =>
    rw [mapRegions_succ]
    by_cases hm : m = first + n
    · rw [hm, Bank.region_setRegion_same (mapRegions_storageWf r first n h), if_pos (by omega)]
    · rw [Bank.region_setRegion_other hm, ih]
      exact if_congr (by omega) rfl rfl

theorem Bank.setRegion_run (r : Fin 16) (first last : Nat) {b : Bank} (h : b.storageWf) (hle : first ≤ last) (n : Nat) :
    (first ≤ n ∧ n ≤ last → (mapRegions r first (last - first + 1) b).region n = r)
      ∧ (n < first ∨ last < n → (mapRegions r first (last - first + 1) b).region n = b.region n) := by
  rw [mapRegions_region r first _ h]
  exact ⟨fun hin => if_pos (by omega), fun hout => if_neg (by omega)⟩

/-! ### The two requests -/

section
variable {s : State} {body : List Byte}

theorem applyBankSize_stored (h : field body 0 2 ≤ 4096) : applyBankSize body s
    = ({ s with tts := s.tts.setShadow { s.tts.shadowBank with count := field body 0 2 } },
      [0x00] ++ le 2 (field body 0 2)) := if_pos h

theorem applyBankSize_refused (h : 4096 < field body 0 2) : applyBankSize body s = (s, [statusBadField]) :=
  if_neg (Nat.not_le.mpr h)

theorem applyRegionMap_stored {r : Fin 16} (hregion : field body 4 1 = r.val)
    (hrange : field body 0 2 ≤ field body 2 2 ∧ field body 2 2 < 4096) : applyRegionMap body s
    = ({ s with tts := s.tts.setShadow (mapRegions r (field body 0 2) (field body 2 2 - field body 0 2 + 1)
          s.tts.shadowBank) },
      [0x00] ++ le 2 (field body 2 2 - field body 0 2 + 1)) := by
  have hlt : field body 4 1 < 16 := hregion ▸ r.isLt
  have hr : (⟨field body 4 1, hlt⟩ : Fin 16) = r := Fin.ext hregion
  simp only [applyRegionMap, dif_pos hlt, if_pos hrange, hr]
  rfl

theorem applyRegionMap_refused
    (h : field body 2 2 < field body 0 2 ∨ 4096 ≤ field body 2 2 ∨ 16 ≤ field body 4 1) :
    applyRegionMap body s = (s, [statusBadField]) := by
  unfold applyRegionMap
  dsimp only
  split
  next hregion => exact if_neg (by omega)
  next => rfl

end

/-- Settles O25: the two requests, each with its refusals. -/
theorem bankSizeAndRegionMapEditTheShadow : Obligations.BankSizeAndRegionMapEditTheShadow := by
  intro s tag hready hopen
  have hsize {n : Nat} (hn : n < 65536) : field (le 2 n) 0 2 = n := field_le_two_of_lt hn
  have hmap {first last region : Nat} (hfirst : first < 65536) (hlast : last < 65536) (hregion : region < 256) :
      field (le 2 first ++ le 2 last ++ [byte region]) 0 2 = first
        ∧ field (le 2 first ++ le 2 last ++ [byte region]) 2 2 = last
        ∧ field (le 2 first ++ le 2 last ++ [byte region]) 4 1 = region :=
    ⟨field_le_two_of_lt hfirst, field_le_two_of_lt hlast, byte_toNat_of_lt hregion⟩
  refine ⟨fun n hn => ?_, fun n hn hfits => ?_, fun first last region hle hlast hregion hwf => ?_,
    fun first last region hfirst hlast hregion hrange => ?_⟩
  · have hfield := hsize (n := n) (by omega)
    have hwork := applyBankSize_stored (s := s.counted) (hfield.trans_le hn)
    rw [hfield] at hwork
    exact exec_request_replied hready .bankSize tag rfl rfl hopen (congrArg answered hwork) rfl
  · exact exec_badField hready .bankSize tag rfl rfl hopen
      (congrArg answered (applyBankSize_refused (hn.trans_eq (hsize hfits).symm)))
  · obtain ⟨hffirst, hflast, hfregion⟩ := hmap (first := first) (last := last) (region := region) (by omega) (by omega)
      (by omega)
    have hwork := applyRegionMap_stored (s := s.counted) (r := ⟨region, hregion⟩) hfregion (by omega)
    rw [hffirst, hflast] at hwork
    obtain ⟨hdelays, hcount⟩ := mapRegions_frame ⟨region, hregion⟩ first (last - first + 1) s.tts.shadowBank
    refine ⟨_, exec_request_replied hready .regionMap tag rfl rfl hopen (congrArg answered hwork) rfl, hdelays,
      hcount, fun n => ?_⟩
    obtain ⟨hin, hout⟩ := Bank.setRegion_run ⟨region, hregion⟩ first last hwf hle n
    exact ⟨fun h => congrArg Fin.val (hin h), hout⟩
  · obtain ⟨hffirst, hflast, hfregion⟩ := hmap hfirst hlast hregion
    refine exec_badField hready .regionMap tag rfl rfl hopen (congrArg answered (applyRegionMap_refused ?_))
    rwa [hffirst, hflast, hfregion]

/-! ### Requests that are refused before their block sees them -/

theorem Request.ofKind_eq_none {kind : Byte} (h : ∀ r : Request, r.kind ≠ kind) : Request.ofKind kind = none := by
  refine List.find?_eq_none.mpr fun r _ => ?_
  rw [beq_iff_eq]
  exact h r

/-- Settles O59: the checks of R175 in their order. -/
theorem refusedRequestsChangeNothing : Obligations.RefusedRequestsChangeNothing := by
  intro s tag body hready hlength
  refine ⟨fun kind hkind hunknown => ?_, fun r hbad => exec_badLength hready r tag hlength hbad,
    fun r hok hlocked hr => ?_⟩
  · refine congrArg Host.Outcome.next (exec_refused hready hkind tag 0x02 hlength ?_)
    simp only [answerFrame, Request.ofKind_eq_none hunknown, statusUnknownKind]
  · have hchecks : r.modeOk s.mode = true ∧ r.needsUnlocked = true := by
      simp only [List.mem_cons, List.not_mem_nil, or_false] at hr
      rcases hr with rfl | rfl | rfl | rfl | rfl <;> exact ⟨rfl, rfl⟩
    exact exec_locked hready r tag hok hchecks.1 hchecks.2 hlocked

end Sys2Proof.Machine

/-! PROOFS. What becomes of a region depends on that region alone (R118), a declaration (R127 to R132), the closes of a
swap and of STOP (R124 to R126), and which changes of other blocks the builder's walks do not see. -/

namespace Sys2Proof.Machine

/-! ### One region of a walk over all -/

section
variable {f : State → Fin 16 → State}

/-- A walk of steps that each change their own region alone leaves the regions it does not visit. -/
theorem foldl_region_other (hother : ∀ s a q, a ≠ q → (f s a).evb.regions[q] = s.evb.regions[q]) {r : Fin 16}
    {l : List (Fin 16)} (hr : r ∉ l) (s : State) : (l.foldl f s).evb.regions[r] = s.evb.regions[r] := by
  induction l generalizing s with
  | nil => rfl
  | cons a l ih =>
    obtain ⟨hne, hrest⟩ := List.ne_and_not_mem_of_not_mem_cons hr
    rw [List.foldl_cons, ih hrest, hother s a r (Ne.symm hne)]

/-- Where each step also looks at its own region alone, a walk over all makes of a region what its own step makes. -/
theorem foldl_region (hother : ∀ s a q, a ≠ q → (f s a).evb.regions[q] = s.evb.regions[q])
    (hlocal : ∀ s t a, s.evb.regions[a] = t.evb.regions[a] → (f s a).evb.regions[a] = (f t a).evb.regions[a])
    (s : State) (r : Fin 16) : ((List.finRange 16).foldl f s).evb.regions[r] = (f s r).evb.regions[r] := by
  obtain ⟨l, m, hsplit⟩ := List.append_of_mem (List.mem_finRange r)
  have hnodup := List.nodup_finRange 16
  rw [hsplit] at hnodup
  have hm : r ∉ m := (List.nodup_cons.mp (List.Nodup.of_append_right hnodup)).1
  have hl : r ∉ l := fun hin => (List.nodup_append.mp hnodup).2.2 r hin r List.mem_cons_self rfl
  rw [hsplit, List.foldl_append, List.foldl_cons, foldl_region_other hother hm]
  exact hlocal _ _ r (foldl_region_other hother hl s)

end

/-! ### Closing and taking an origin are local -/

section
variable (s : State) (r q : Fin 16)

theorem State.closeCandidate_region (reason : CloseReason) (k : Candidate) :
    (s.closeCandidate r reason k).evb.regions[r] = s.evb.regions[r].afterClose := by
  rw [State.closeCandidate, State.onRegion_same, State.declareEvent_regions]

theorem State.closeCandidate_region_other (h : r ≠ q) (reason : CloseReason) (k : Candidate) :
    (s.closeCandidate r reason k).evb.regions[q] = s.evb.regions[q] := by
  rw [State.closeCandidate, State.onRegion_other _ _ _ _ h, State.declareEvent_regions]

theorem State.keepOpen_region (k : Candidate) :
    (s.keepOpen r k).evb.regions[r] = { s.evb.regions[r] with slot := .opened k } :=
  State.onRegion_same _ _ _

/-- One region at one origin leaves the others. -/
theorem State.regionOrigin_other (h : r ≠ q) (skipped : Bool) (d : PassResult) :
    (s.regionOrigin skipped d r).evb.regions[q] = s.evb.regions[q] :=
  State.regionOrigin_keeps (P := fun u => u.evb.regions[q] = s.evb.regions[q]) rfl
    (fun _ _ => State.onRegion_other _ _ _ _ h) (fun _ _ _ => State.closeCandidate_region_other _ _ _ h _ _)
    (fun _ _ => State.onRegion_other _ _ _ _ h) skipped d

/-- What it makes of its own depends on that region alone. -/
theorem State.regionOrigin_local {s t : State} (h : s.evb.regions[r] = t.evb.regions[r]) (skipped : Bool)
    (d : PassResult) : (s.regionOrigin skipped d r).evb.regions[r] = (t.regionOrigin skipped d r).evb.regions[r] := by
  have hclose (reason : CloseReason) (k : Candidate) :
      (s.closeCandidate r reason k).evb.regions[r] = (t.closeCandidate r reason k).evb.regions[r] := by
    rw [State.closeCandidate_region, State.closeCandidate_region, h]
  have hkeep (k : Candidate) : (s.keepOpen r k).evb.regions[r] = (t.keepOpen r k).evb.regions[r] := by
    rw [State.keepOpen_region, State.keepOpen_region, h]
  unfold State.regionOrigin State.firingOrigin State.quietOrigin
  dsimp only
  rw [h]
  generalize (if skipped then none else d.best[r]) = best
  cases t.evb.regions[r].slot with
  | idle =>
    cases best with
    | none => exact h
    | some b =>
      dsimp only
      split
      · exact hkeep _
      · exact h
  | opened k =>
    cases best with
    | none =>
      dsimp only
      split
      · exact hclose _ _
      · split
        · exact hclose _ _
        · exact hkeep _
    | some b =>
      dsimp only
      split
      · exact hclose _ _
      · exact hkeep _
  | dead n =>
    dsimp only
    rw [State.onRegion_same, State.onRegion_same, h]

theorem State.builderOrigin_region (skipped : Bool) (d : PassResult) :
    (s.builderOrigin skipped d).evb.regions[r] = (s.regionOrigin skipped d r).evb.regions[r] := by
  rw [State.builderOrigin]
  exact foldl_region (f := fun u a => u.regionOrigin skipped d a)
    (fun u a p hne => State.regionOrigin_other u a p hne skipped d)
    (fun _ _ a hsame => State.regionOrigin_local a hsame skipped d) s r

end

/-- The skipped origins of a pass result, for one region. -/
theorem State.skippedOrigins_region (d : PassResult) (r : Fin 16) (n : Nat) : ∀ s t : State,
    s.evb.regions[r] = t.evb.regions[r] →
    (State.skippedOrigins d n s).evb.regions[r]
      = ((fun u : State => u.regionOrigin true d r)^[n] t).evb.regions[r] := by
  induction n with
  | zero => exact fun _ _ h => h
  | succ n ih =>
    intro s t h
    rw [Function.iterate_succ_apply]
    refine ih _ _ ?_
    rw [State.builderOrigin_region]
    exact State.regionOrigin_local r h true d

/-- Settles O39: the walks over the regions, one region at a time. -/
theorem regionsTakeOriginsIndependently : Obligations.RegionsTakeOriginsIndependently := by
  intro s d r
  rw [State.takePassResult, State.builderOrigin_region]
  exact State.regionOrigin_local r (State.skippedOrigins_region d r _ s s rfl) false d

/-! ### Declarations -/

theorem nextEvent_eq (n : Nat) : nextEvent n = if n = 4294967295 then 1 else n + 1 := rfl

/-- The channel list of a job: ascending, the channels used by the peak that are in service (R131). -/
theorem Conditioner.jobChannels_pairwise (c : Conditioner) (k : Candidate) :
    (c.jobChannels k).Pairwise fun a b => a.channel < b.channel := by
  refine List.Pairwise.filterMap _ (fun a b hlt x hx y hy => ?_) (List.pairwise_lt_finRange 48)
  dsimp only at hx hy
  split at hx
  case isFalse => cases hx
  case isTrue =>
    split at hy
    case isFalse => cases hy
    case isTrue =>
      cases hx
      cases hy
      exact hlt

theorem Conditioner.mem_jobChannels (c : Conditioner) (k : Candidate) (x : JobChannel) :
    x ∈ c.jobChannels k ↔ k.peakDelays[x.channel] ≠ 255 ∧ c.channels[x.channel].state ≠ .disabled
      ∧ x.delay = k.peakDelays[x.channel].toNat ∧ x.arrival = (k.peakOrigin + x.delay) * 2 ^ c.decimation.val := by
  have hservice (ch : Fin 48) : c.channels[ch].inService = true ↔ c.channels[ch].state ≠ .disabled :=
    decide_eq_true_iff
  unfold Conditioner.jobChannels
  rw [List.mem_filterMap]
  constructor
  · rintro ⟨ch, -, hx⟩
    dsimp only at hx
    split at hx
    case isFalse => cases hx
    case isTrue hused =>
      cases hx
      exact ⟨hused.1, (hservice ch).mp hused.2, rfl, rfl⟩
  · rintro ⟨hdelay, hstate, hd, ha⟩
    refine ⟨x.channel, List.mem_finRange _, ?_⟩
    dsimp only
    rw [if_pos ⟨hdelay, (hservice _).mpr hstate⟩, ← hd]
    exact congrArg (fun a => some { x with arrival := a }) ha.symm

section
variable {s : State}

/-- A declaration that finds the queue full (R128, R132). -/
theorem State.declareEvent_lost (h : 64 ≤ s.rpq.summaries.length) (r : Fin 16) (reason : CloseReason)
    (k : Candidate) : s.declareEvent r reason k = s.withEvb { s.evb with
      eventCounter := nextEvent s.evb.eventCounter
      lostBefore := min 65535 (s.evb.lostBefore + 1)
      lostTotal := min 4294967295 (s.evb.lostTotal + 1) } := by
  have hfull : s.rpq.admitsEvent = false := decide_eq_false (Nat.not_lt.mpr h)
  simp only [State.declareEvent, hfull, Bool.false_eq_true, if_false, satInc_eq_min, State.withEvb]

/-- A declaration that is admitted (R128, R129, R131). -/
theorem State.declareEvent_admitted (h : s.rpq.summaries.length < 64) (r : Fin 16) (reason : CloseReason)
    (k : Candidate) : s.declareEvent r reason k
      = ((s.withEvb { s.evb with eventCounter := nextEvent s.evb.eventCounter, lostBefore := 0 }).withExu
          { s.exu with jobs := s.exu.jobs ++ if s.exu.statusFor reason = .queued then
            [s.jobFor s.evb.eventCounter k] else [] }).withRpq
        (s.rpq.append (.event (s.summaryFor r reason k))) := by
  have hroom : s.rpq.admitsEvent = true := decide_eq_true h
  by_cases hqueued : s.exu.statusFor reason = .queued
  · simp only [State.declareEvent, hroom, if_true, State.summaryFor, hqueued, State.withEvb, State.withExu,
      State.withRpq]
  · simp only [State.declareEvent, hroom, if_true, State.summaryFor, hqueued, if_false, List.append_nil,
      State.withEvb, State.withExu, State.withRpq]

end

/-- Settles O41: admitted with its job, or lost. -/
theorem declarationIsAdmittedOrLost : Obligations.DeclarationIsAdmittedOrLost := by
  intro s r reason k status hstatus
  obtain rfl : status = s.exu.statusFor reason := hstatus
  refine ⟨fun hfull => State.declareEvent_lost hfull r reason k, fun hroom =>
    ⟨if s.exu.statusFor reason = .queued then [s.jobFor s.evb.eventCounter k] else [], ?_, fun hne => if_neg hne,
      fun hqueued => ⟨s.ccu.jobChannels k, if_pos hqueued, s.ccu.jobChannels_pairwise k,
        s.ccu.mem_jobChannels k⟩⟩⟩
  rw [State.declareEvent_admitted hroom]
  simp only [Reports.append, Reports.judge, Reports.attnLevel, List.length_append, List.length_singleton,
    State.summaryFor, Candidate.closeOrigin, nextEvent_eq, State.withEvb, State.withExu, State.withRpq, State.jobFor,
    Conditioner.dec]

/-! ### Closing every candidate -/

/-- A close leaves the slot DEAD, or IDLE where the dead time is 0 (R124). -/
theorem Region.afterClose_eq (g : Region) : g.afterClose = if g.record.deadTime = 0 then
    { g with slot := .idle, inForce := g.inForce && g.record.enabled }
    else { g with slot := .dead g.record.deadTime } := rfl

/-- The close of region `r` where it is OPEN: one step of closing all. -/
def State.closeOpen (reason : CloseReason) (s : State) (r : Fin 16) : State :=
  match s.evb.regions[r].slot with
  | .opened k => s.closeCandidate r reason k
  | .idle | .dead _ => s

theorem State.closeAll_eq (s : State) (reason : CloseReason) :
    s.closeAll reason = (List.finRange 16).foldl (State.closeOpen reason) s := rfl

section
variable (reason : CloseReason) (s : State)

theorem State.closeOpen_region (r : Fin 16) : (s.closeOpen reason r).evb.regions[r]
    = match s.evb.regions[r].slot with
      | .idle | .dead _ => s.evb.regions[r]
      | .opened _ => s.evb.regions[r].afterClose := by
  unfold State.closeOpen
  cases hslot : s.evb.regions[r].slot with
  | idle => rfl
  | dead n => rfl
  | opened k => exact State.closeCandidate_region s r reason k

theorem State.closeOpen_other {r q : Fin 16} (h : r ≠ q) :
    (s.closeOpen reason r).evb.regions[q] = s.evb.regions[q] := by
  unfold State.closeOpen
  split
  · exact State.closeCandidate_region_other s r q h reason _
  · rfl
  · rfl

theorem State.closeAll_region (r : Fin 16) :
    (s.closeAll reason).evb.regions[r] = (s.closeOpen reason r).evb.regions[r] := by
  rw [State.closeAll_eq]
  refine foldl_region (f := State.closeOpen reason) (fun u _ _ hne => State.closeOpen_other reason u hne)
    (fun u v a hsame => ?_) s r
  rw [State.closeOpen_region, State.closeOpen_region, hsame]

theorem State.declareEvent_eventCounter (r : Fin 16) (k : Candidate) :
    (s.declareEvent r reason k).evb.eventCounter = nextEvent s.evb.eventCounter := by
  unfold State.declareEvent
  dsimp only
  split <;> rfl

/-- An OPEN region takes one event number (R127). -/
theorem State.closeOpen_eventCounter (r : Fin 16) : (s.closeOpen reason r).evb.eventCounter
    = if s.evb.regions[r].slot.code = 1 then nextEvent s.evb.eventCounter else s.evb.eventCounter := by
  unfold State.closeOpen
  split
  next hslot =>
    rw [hslot, if_pos (by rfl)]
    exact State.declareEvent_eventCounter reason s r _
  next hslot =>
    rw [hslot]
    rfl
  next hslot =>
    rw [hslot]
    rfl

theorem State.closeAll_eventCounter_of_nodup {l : List (Fin 16)} (hl : l.Nodup) :
    (l.foldl (State.closeOpen reason) s).evb.eventCounter
      = nextEvent^[l.countP fun r => s.evb.regions[r].slot.code == 1] s.evb.eventCounter := by
  induction l generalizing s with
  | nil => rfl
  | cons a l ih =>
    obtain ⟨ha, hl⟩ := List.nodup_cons.mp hl
    have hsame : (l.countP fun r => (s.closeOpen reason a).evb.regions[r].slot.code == 1)
        = l.countP fun r => s.evb.regions[r].slot.code == 1 := by
      refine List.countP_congr fun r hr => ?_
      have hne : a ≠ r := by rintro rfl; exact ha hr
      rw [State.closeOpen_other reason s hne]
    rw [List.foldl_cons, ih _ hl, hsame, State.closeOpen_eventCounter, List.countP_cons]
    simp only [beq_iff_eq]
    split
    · rw [Function.iterate_succ_apply]
    · rfl

end

/-- Settles O42: one close, and the walk that closes all. -/
theorem closesDeclareEveryOpenCandidate : Obligations.ClosesDeclareEveryOpenCandidate := by
  intro s reason
  refine ⟨fun _ _ => rfl, fun r g hg => ?_, ?_⟩
  · subst hg
    rw [State.closeAll_region, State.closeOpen_region]
    cases s.evb.regions[r].slot <;> rfl
  · have hcount := State.closeAll_eventCounter_of_nodup reason s (List.nodup_finRange 16)
    rw [← State.closeAll_eq, show nextEvent = _ from funext nextEvent_eq] at hcount
    exact hcount

/-! ### Changes that the builder does not see -/

/-- A change of the state that the builder does not see and that does not touch what the builder writes. -/
structure BuilderBlind (f : State → State) : Prop where
  evb : ∀ s, (f s).evb = s.evb
  ccu : ∀ s, (f s).ccu.channels = s.ccu.channels ∧ (f s).ccu.decimation = s.ccu.decimation
  exu : ∀ s, (f s).exu = s.exu
  rpq : ∀ s, (f s).rpq = s.rpq
  comm : ∀ s b u q, f (((s.withEvb b).withExu u).withRpq q) = (((f s).withEvb b).withExu u).withRpq q

namespace BuilderBlind

variable {f : State → State} (h : BuilderBlind f) (s : State)
include h

theorem withEvb (b : Builder) : f (s.withEvb b) = (f s).withEvb b := by
  have hcomm := h.comm s b s.exu s.rpq
  have hsame : ((f s).withEvb b).withExu s.exu = (f s).withEvb b := by
    rw [← h.exu s]
    rfl
  rw [hsame] at hcomm
  have hsame' : ((f s).withEvb b).withRpq s.rpq = (f s).withEvb b := by
    rw [← h.rpq s]
    rfl
  rw [hsame'] at hcomm
  exact hcomm

theorem onRegion (r : Fin 16) (g : Region → Region) : (f s).onRegion r g = f (s.onRegion r g) := by
  rw [State.onRegion, State.onRegion, h.withEvb, h.evb]

theorem jobFor (n : Nat) (k : Candidate) : (f s).jobFor n k = s.jobFor n k := by
  obtain ⟨hchannels, hdecimation⟩ := h.ccu s
  have hlist : (f s).ccu.jobChannels k = s.ccu.jobChannels k := by
    simp only [Conditioner.jobChannels, Conditioner.dec, hchannels, hdecimation]
  simp only [State.jobFor, hlist, Conditioner.dec, hdecimation, h.exu]

theorem declareEvent (r : Fin 16) (reason : CloseReason) (k : Candidate) :
    (f s).declareEvent r reason k = f (s.declareEvent r reason k) := by
  have hsummary : (f s).summaryFor r reason k = s.summaryFor r reason k := by
    simp only [State.summaryFor, h.evb, h.exu]
  by_cases hroom : s.rpq.summaries.length < 64
  · have hroom' : (f s).rpq.summaries.length < 64 := by rwa [h.rpq]
    rw [State.declareEvent_admitted hroom, State.declareEvent_admitted hroom', h.jobFor, hsummary, h.evb, h.exu, h.rpq]
    exact (h.comm s _ _ _).symm
  · have hfull' : 64 ≤ (f s).rpq.summaries.length := by rw [h.rpq]; exact Nat.le_of_not_lt hroom
    rw [State.declareEvent_lost (Nat.le_of_not_lt hroom), State.declareEvent_lost hfull', h.evb]
    exact (h.withEvb s _).symm

theorem closeCandidate (r : Fin 16) (reason : CloseReason) (k : Candidate) :
    (f s).closeCandidate r reason k = f (s.closeCandidate r reason k) := by
  rw [State.closeCandidate, State.closeCandidate, h.declareEvent, h.onRegion]

theorem closeAll (reason : CloseReason) : (f s).closeAll reason = f (s.closeAll reason) := by
  rw [State.closeAll_eq, State.closeAll_eq]
  refine List.foldl_hom f fun u r => ?_
  unfold State.closeOpen
  rw [h.evb]
  split
  · exact h.closeCandidate _ _ _ _
  · rfl
  · rfl

theorem regionOrigin (skipped : Bool) (d : PassResult) (r : Fin 16) :
    (f s).regionOrigin skipped d r = f (s.regionOrigin skipped d r) := by
  have hkeep (k : Candidate) : (f s).keepOpen r k = f (s.keepOpen r k) := h.onRegion s r _
  unfold State.regionOrigin State.firingOrigin State.quietOrigin
  dsimp only
  rw [h.evb]
  generalize (if skipped then none else d.best[r]) = best
  cases s.evb.regions[r].slot with
  | idle =>
    cases best with
    | none => rfl
    | some b =>
      dsimp only
      split
      · exact hkeep _
      · rfl
  | opened k =>
    cases best with
    | none =>
      dsimp only
      split
      · exact h.closeCandidate _ _ _ _
      · split
        · exact h.closeCandidate _ _ _ _
        · exact hkeep _
    | some b =>
      dsimp only
      split
      · exact h.closeCandidate _ _ _ _
      · exact hkeep _
  | dead n => exact h.onRegion s r _

theorem builderOrigin (skipped : Bool) (d : PassResult) :
    (f s).builderOrigin skipped d = f (s.builderOrigin skipped d) :=
  List.foldl_hom f fun u r => h.regionOrigin u skipped d r

theorem skippedOrigins (d : PassResult) (n : Nat) : ∀ s,
    State.skippedOrigins d n (f s) = f (State.skippedOrigins d n s) := by
  induction n with
  | zero => exact fun _ => rfl
  | succ n ih =>
    intro s
    simp only [State.skippedOrigins]
    rw [h.builderOrigin, ih]

theorem takePassResult (d : PassResult) : (f s).takePassResult d = f (s.takePassResult d) := by
  rw [State.takePassResult, State.takePassResult, h.skippedOrigins, h.builderOrigin]

end BuilderBlind

theorem withTts_blind (t : TableStore) : BuilderBlind fun s => s.withTts t :=
  ⟨fun _ => rfl, fun _ => ⟨rfl, rfl⟩, fun _ => rfl, fun _ => rfl, fun _ _ _ _ => rfl⟩

theorem withCpt_blind (c : ControlPort) : BuilderBlind fun s => s.withCpt c :=
  ⟨fun _ => rfl, fun _ => ⟨rfl, rfl⟩, fun _ => rfl, fun _ => rfl, fun _ _ _ _ => rfl⟩

theorem elapse_blind (n : Nat) : BuilderBlind (State.elapse n) :=
  ⟨fun _ => rfl, fun _ => ⟨rfl, rfl⟩, fun _ => rfl, fun _ => rfl, fun _ _ _ _ => rfl⟩

/-- What STOP changes before its closes. -/
theorem stopChange_blind (m : ModeController) (e : Engine) (st : EpochStage) (t : TableStore) :
    BuilderBlind fun s => (((s.withMdc m).withStk e).withCcu { s.ccu with stage := st }).withTts t :=
  ⟨fun _ => rfl, fun _ => ⟨rfl, rfl⟩, fun _ => rfl, fun _ => rfl, fun _ _ _ _ => rfl⟩

end Sys2Proof.Machine

/-! PROOFS. The arbiter (R76 to R80) and TABLE READ (R68, R69): the swap and its notice, a round that begins and one
that does not, and what a read returns. -/

namespace Sys2Proof.Machine

/-! ### The swap -/

/-- The roles change, every OPEN candidate is closed, the tap is checked against the new active bank. -/
theorem State.swap_parts (s : State) : s.swap
    = ((s.closeAll .table).withTts { s.tts with active := s.tts.active.other, swapPending := false }).withStk
      (s.stk.swapNotice s.tts.shadowBank.count) := by
  have hclose := (withTts_blind { s.tts with active := s.tts.active.other, swapPending := false }).closeAll s .table
  have hstk : (s.closeAll .table).stk = s.stk := (s.closeAll_builds .table).stk
  have hcount := TableStore.swapped_activeBank s.tts false
  rw [State.swap_eq, hclose]
  generalize s.closeAll .table = u at hstk
  dsimp only
  rw [State.withTts_stk, State.withTts_tts, hcount, hstk]

theorem State.swapNotice_eq (e : Engine) (n : Nat) : e.swapNotice n = { e with
    block := .empty, countdown := 0, tapEnabled := e.tapEnabled && decide (e.tapNode < n) } := rfl

/-! ### When a round begins -/

section
variable {s : State}

theorem State.arbiterIdle_iff :
    s.arbiterIdle = true ↔ s.stk.pass = none ∧ s.stk.origins = [] ∧ s.tts.round = none := by
  simp [State.arbiterIdle, and_assoc]

theorem State.arbiterIdle_eq_false (h : s.stk.pass ≠ none ∨ s.stk.origins ≠ [] ∨ s.tts.round ≠ none) :
    s.arbiterIdle = false := by
  rw [Bool.eq_false_iff, ne_eq, State.arbiterIdle_iff]
  tauto

theorem State.serveIdle_of_busy (h : s.arbiterIdle = false) : s.serveIdle = s :=
  State.serveIdle_of_not_due (by rw [State.roundDue, h, Bool.false_and])

theorem State.serveIdle_of_nothing (h : s.tts.waits = false) : s.serveIdle = s :=
  State.serveIdle_of_not_due (by rw [State.roundDue, h, Bool.and_false])

theorem State.serveIdle_of_idle (hidle : s.arbiterIdle = true) (hwaits : s.tts.waits = true) :
    s.serveIdle = s.startRound :=
  if_pos (by rw [State.roundDue, hidle, hwaits]; rfl)

theorem State.startRound_of_no_swap (h : s.tts.swapPending = false) :
    s.startRound = s.withTts s.tts.reachRead := by
  simp only [State.startRound, h, Bool.false_eq_true, if_false, State.withTts]

theorem State.startRound_of_swap (h : s.tts.swapPending = true) :
    s.startRound = s.swap.withTts s.swap.tts.reachRead := by
  simp only [State.startRound, h, if_true, State.withTts]

end

/-- The grant that a round reaches after its swap: the waiting read, or else a copy slice (R78). -/
def TableStore.nextRound (t : TableStore) : Option Round :=
  if t.waitingRead.isSome then some { grant := .read, cyclesLeft := 128 }
  else t.copy.map fun j => { grant := .slice, cyclesLeft := 16 * min 64 (j.toCopy - j.copied) }

theorem TableStore.reachRead_eq (t : TableStore) : t.reachRead = { t with round := t.nextRound } := by
  unfold TableStore.reachRead TableStore.nextRound
  split
  next hread => rw [hread]; rfl
  next hread => rw [hread]; exact congrArg (fun w => { t.reachSlice with waitingRead := w }) hread

/-- A round with a swap: the swap, then the grant. -/
theorem State.startRound_swapped {s : State} (h : s.tts.swapPending = true) : s.startRound
    = ((s.closeAll .table).withTts { s.tts with
        active := s.tts.active.other, swapPending := false, round := s.tts.nextRound }).withStk
      (s.stk.swapNotice s.tts.shadowBank.count) := by
  rw [State.startRound_of_swap h, TableStore.reachRead_eq, State.swap_tts, State.swap_parts]
  generalize s.closeAll .table = u
  rfl

/-! ### What a read returns -/

/-- A walk in ADVANCE passes over the places behind the pointer, round the bank (R67, R68). -/
theorem readDelays_eq (b : Bank) (n : Nat) : ∀ p : Pointer, p.mode = .advance → p.InBank →
    readDelays b n p = (List.range n).map fun i =>
      b.delay ((p.place + i) % 196608 / 48) ((p.place + i) % 196608 % 48) := by
  induction n with
  | zero => exact fun _ _ _ => rfl
  | succ n ih =>
    intro p hmode hp
    obtain ⟨hnextIn, hnextPlace⟩ := Pointer.next_advance hmode hp
    obtain ⟨hnode, hchannel⟩ := hp
    have hhead : (p.place + 0) % 196608 / 48 = p.node ∧ (p.place + 0) % 196608 % 48 = p.channel := by
      unfold Pointer.place
      omega
    rw [readDelays, ih _ (p.next_mode.trans hmode) hnextIn, List.range_succ_eq_map, List.map_cons, List.map_map,
      hhead.1, hhead.2, hnextPlace]
    refine congrArg _ (List.map_congr_left fun i _ => ?_)
    have hplace : ((p.place + 1) % 196608 + i) % 196608 = (p.place + (i + 1)) % 196608 := by omega
    simp only [Function.comp_apply, hplace, Nat.succ_eq_add_one]

/-- The reply to a read is the stated one (R68). -/
theorem TableStore.readReply_eq (t : TableStore) {r : ReadRequest} (hnode : r.node < 4096) (hchannel : r.channel < 48) :
    t.readReply r = t.contents r := by
  have hwalk : readDelays (t.bank r.bank) r.count { node := r.node, channel := r.channel, mode := .advance }
      = (List.range r.count).map fun i => (t.bank r.bank).delay
        ((48 * r.node + r.channel + i) % 196608 / 48) ((r.channel + i) % 48) := by
    rw [readDelays_eq _ _ _ rfl ⟨hnode, hchannel⟩]
    refine List.map_congr_left fun i _ => ?_
    have hmod : (48 * r.node + r.channel + i) % 196608 % 48 = (r.channel + i) % 48 := by omega
    exact congrArg _ hmod
  simp only [TableStore.readReply, TableStore.contents, hwalk, statusOk, Config.bankNodes]

/-! ### TABLE READ -/

/-- A request that its block leaves waiting stays the executing one (R69, R175). -/
theorem exec_request_waits {s t : State} (h : s.ready) (r : Request) (tag : Byte) {body : List Byte}
    (hl : r.lengthOk body = true) (hm : r.modeOk s.mode = true) (hb : (r.needsUnlocked && s.tts.locked) = false)
    (ha : r.apply body s.counted = (t, none)) :
    exec (r.command tag body) s = .next { t with cpt := { t.cpt with executing := some (.tableRead tag) } } := by
  have hanswer := answerFrame_passed (s := s.counted) r tag hl hm hb
  rw [ha] at hanswer
  have hnone : s.counted.ccu.stage = .none := by
    obtain ⟨-, -, -, -, hstage⟩ := h
    exact hstage
  rw [exec_command, hostSends_of_ready h r.kind_lt tag (Request.lengthOk_le hl)]
  simp only [State.executeFrame, State.settleEpoch_of_none hnone, hanswer]

section
variable {s : State} {body : List Byte} {r : ReadRequest}

theorem BankId.ofCode_code (w : BankId) : BankId.ofCode w.code.toNat = some w := by cases w <;> rfl

theorem BankId.ofCode_eq_none {n : Nat} (h : 2 ≤ n) : BankId.ofCode n = none := by
  obtain ⟨k, rfl⟩ := Nat.exists_eq_add_of_le' h
  rfl

/-- The fields of a TABLE READ (R190). -/
theorem ReadRequest.ofBody_eq (hbody : body = [r.bank.code] ++ le 2 r.node ++ [byte r.channel] ++ le 2 r.count)
    (hnode : r.node < 65536) (hchannel : r.channel < 256) (hcount : r.count < 65536) : ReadRequest.ofBody body
    = if r.node < 4096 ∧ r.channel < 48 ∧ 1 ≤ r.count ∧ r.count ≤ 1024 then some r else none := by
  have hfnode : field body 1 2 = r.node := by rw [hbody]; exact field_le_two_of_lt hnode
  have hfchannel : field body 3 1 = r.channel := by rw [hbody]; exact byte_toNat_of_lt hchannel
  have hfcount : field body 4 2 = r.count := by rw [hbody]; exact field_le_two_of_lt hcount
  have hbank : BankId.ofCode (field body 0 1) = some r.bank := by rw [hbody]; exact r.bank.ofCode_code
  simp only [ReadRequest.ofBody, hbank, hfnode, hfchannel, hfcount]

theorem applyTableRead_refused (h : ReadRequest.ofBody body = none) :
    applyTableRead body s = (s, some [statusBadField]) := by
  simp only [applyTableRead, h]

theorem applyTableRead_taken (h : ReadRequest.ofBody body = some r) (hnow : r.bank ≠ s.tts.active ∨ s.mode = .standby) :
    applyTableRead body s = (s, some (s.tts.readReply r)) := by
  have hnot : ¬ (r.bank = s.tts.active ∧ s.mode ≠ .standby) := by tauto
  simp only [applyTableRead, h, if_neg hnot]

theorem applyTableRead_waits (h : ReadRequest.ofBody body = some r) (hbank : r.bank = s.tts.active)
    (hmode : s.mode ≠ .standby) :
    applyTableRead body s = ((s.withTts { s.tts with waitingRead := some r }).serveIdle, none) := by
  simp only [applyTableRead, h, if_pos (And.intro hbank hmode), State.withTts]

end

/-- Settles O26: refused, taken, waiting, and waiting with the round that begins at once. -/
theorem tableReadIsTakenOrWaits : Obligations.TableReadIsTakenOrWaits := by
  intro s tag r body hready hbody hnode hchannel hcount
  have hlength : body.length = 6 := by rw [hbody]; rfl
  have hlengthOk : Request.tableRead.lengthOk body = true := beq_iff_eq.mpr hlength
  have hparse := ReadRequest.ofBody_eq hbody hnode hchannel hcount
  have hwaits (hparsed : ReadRequest.ofBody body = some r) (hbank : r.bank = s.tts.active)
      (hmode : s.mode ≠ .standby) {t : State}
      (ht : (s.counted.withTts { s.tts with waitingRead := some r }).serveIdle = t) :
      exec (.tableRead tag body) s = .next { t with cpt := { t.cpt with executing := some (.tableRead tag) } } :=
    exec_request_waits hready .tableRead tag hlengthOk rfl rfl
      ((applyTableRead_waits (s := s.counted) hparsed hbank hmode).trans (congrArg (·, none) ht))
  refine ⟨fun hrange => ?_, fun hnode' hchannel' hlow hhigh => ?_, fun b hb => ?_⟩
  · rw [if_neg (by omega)] at hparse
    exact exec_badField hready .tableRead tag hlengthOk rfl rfl (applyTableRead_refused hparse)
  · rw [if_pos ⟨hnode', hchannel', hlow, hhigh⟩] at hparse
    refine ⟨fun hnow => ?_, fun hbank hmode hbusy => ?_, fun hbank hmode hpass horigins hround hswap => ?_,
      fun hbank hmode hpass horigins hround hswap => ?_⟩
    · have hwork := applyTableRead_taken (s := s.counted) hparse hnow
      rw [TableStore.readReply_eq _ hnode' hchannel'] at hwork
      exact exec_request_replied (t := s.counted) hready .tableRead tag hlengthOk rfl rfl hwork rfl
    · exact hwaits hparse hbank hmode (State.serveIdle_of_busy (State.arbiterIdle_eq_false hbusy))
    · have hround' := State.serveIdle_of_idle (s := s.counted.withTts { s.tts with waitingRead := some r })
        (State.arbiterIdle_iff.mpr ⟨hpass, horigins, hround⟩) (by simp [TableStore.waits])
      rw [State.startRound_of_no_swap (s := s.counted.withTts { s.tts with waitingRead := some r }) hswap] at hround'
      exact hwaits hparse hbank hmode hround'
    · have hround' := State.serveIdle_of_idle (s := s.counted.withTts { s.tts with waitingRead := some r })
        (State.arbiterIdle_iff.mpr ⟨hpass, horigins, hround⟩) (by simp [TableStore.waits])
      have hclose := (withCpt_blind s.counted.cpt).closeAll
        (s.withTts { s.tts with waitingRead := some r }) .table
      rw [(withTts_blind { s.tts with waitingRead := some r }).closeAll] at hclose
      rw [State.startRound_swapped (s := s.counted.withTts { s.tts with waitingRead := some r }) hswap] at hround'
      rw [hwaits hparse hbank hmode hround']
      have hcloseAll : (s.counted.withTts { s.tts with waitingRead := some r }).closeAll .table
          = ((s.closeAll .table).withTts { s.tts with waitingRead := some r }).withCpt s.counted.cpt := hclose
      rw [hcloseAll]
      generalize s.closeAll .table = u
      rfl
  · have hrefused : ReadRequest.ofBody (b :: body.tail) = none := by
      have hcode : BankId.ofCode (field (b :: body.tail) 0 1) = none := by
        rw [field_cons_zero]
        exact BankId.ofCode_eq_none hb
      simp only [ReadRequest.ofBody, hcode]
    have hlength' : (b :: body.tail).length = 6 := by rw [List.length_cons, List.length_tail, hlength]
    exact exec_badField hready .tableRead tag (beq_iff_eq.mpr hlength') rfl rfl (applyTableRead_refused hrefused)

/-! ### The end of the read's grant -/

theorem State.runWaiting_of_none {s : State} (h : s.cpt.waiting = []) : s.runWaiting = s := by
  rw [State.runWaiting, h]
  rfl

/-- With no swap pending the round goes on to a copy slice, or ends. -/
theorem State.grantRead_eq {s : State} (h : s.tts.swapPending = false) : s.grantRead = s.withTts { s.tts with
    waitingRead := none,
    round := s.tts.copy.map fun j => { grant := .slice, cyclesLeft := 16 * min 64 (j.toCopy - j.copied) } } := by
  have hsettled : (s.withTts ({ s.tts with waitingRead := none } : TableStore).reachSlice).roundDue = false := by
    cases hcopy : s.tts.copy <;>
      simp [State.roundDue, State.arbiterIdle, TableStore.waits, TableStore.reachSlice, h, hcopy]
  exact State.serveIdle_of_not_due hsettled

/-- The reply to the read placed, or left waiting for a place; then the waiting frames. -/
theorem State.endReadGrant_eq {s : State} {r : ReadRequest} {tag : Byte} (hread : s.tts.waitingRead = some r)
    (hbusy : s.cpt.executing = some (.tableRead tag)) :
    s.endReadGrant = (State.placeReply (s.grantRead.withCpt { s.grantRead.cpt with executing := none })
      { kind := 0xA2, tag := tag, body := s.tts.readReply r }).runWaiting := by
  simp only [State.endReadGrant, hread, hbusy]
  rfl

theorem State.placeReply_eq (s : State) (r : Reply) : s.placeReply r
    = s.withCpt (if s.cpt.transmit.length < 4 then { s.cpt with transmit := s.cpt.transmit ++ [r] }
      else { s.cpt with executing := some (.replyWaiting r) }) := by
  unfold State.placeReply
  split <;> rfl

/-- Settles O27: the reply formed at the end of the grant, the round moved on before it is placed. -/
theorem readGrantAnswersTheRead : Obligations.ReadGrantAnswersTheRead := by
  intro s n r tag hcomes hread hnode hchannel hbusy hswap
  have hgrant : (s.elapse n).grantRead = _ := State.grantRead_eq hswap
  have hexec : exec .readGrant s = .next (s.elapse n).endReadGrant :=
    congrArg Host.Outcome.next (State.comeAbout_of_comesIn hcomes _)
  rw [State.endReadGrant_eq (s := s.elapse n) hread hbusy, hgrant, TableStore.readReply_eq _ hnode hchannel,
    State.placeReply_eq] at hexec
  refine ⟨_, hexec, fun hnone => State.runWaiting_of_none ?_, rfl, fun hroom => if_pos hroom,
    fun hfull => if_neg hfull, rfl, rfl, rfl, rfl, rfl, rfl, rfl, rfl, rfl⟩
  rw [State.withCpt_cpt]
  split <;> exact hnone

end Sys2Proof.Machine

/-! PROOFS. BANK COPY and its slices (R73, R74), and BANK ACTIVATE (R75 to R77). -/

namespace Sys2Proof.Machine

/-! ### What a slice copies -/

section
variable {src dst : Bank}

theorem copyDelays_storageWf (src : Bank) (n : Nat) (ks : List Nat) {b : Bank} (h : b.storageWf) :
    (ks.foldl (fun b k => copyDelay src b n k) b).storageWf :=
  foldl_keeps (P := Bank.storageWf) (fun _ _ hb => Bank.setDelay_storageWf hb _ _ _) ks b h

theorem copyDelays_frame (src dst : Bank) (n : Nat) (ks : List Nat) :
    (ks.foldl (fun b k => copyDelay src b n k) dst).regions = dst.regions
      ∧ (ks.foldl (fun b k => copyDelay src b n k) dst).count = dst.count :=
  foldl_keeps (P := fun b : Bank => b.regions = dst.regions ∧ b.count = dst.count)
    (f := fun b k => copyDelay src b n k) (fun _ _ hb => hb) ks dst ⟨rfl, rfl⟩

/-- The delays of one node record, the first `j` channels copied. -/
theorem copyDelays_delay (src : Bank) (n : Nat) (h : dst.storageWf) {m k : Nat} (hk : k < 48) (j : Nat) (hj : j ≤ 48) :
    ((List.range j).foldl (fun b i => copyDelay src b n i) dst).delay m k
      = if m = n ∧ k < j then src.delay m k else dst.delay m k := by
  induction j with
  | zero => exact (if_neg (by omega)).symm
  | succ j ih =>
    rw [List.range_succ, List.foldl_append, List.foldl_cons, List.foldl_nil, copyDelay]
    by_cases hat : m = n ∧ k = j
    · obtain ⟨rfl, rfl⟩ := hat
      rw [Bank.delay_setDelay_same (copyDelays_storageWf src m _ h), if_pos ⟨rfl, Nat.lt_succ_self k⟩]
    · rw [Bank.delay_setDelay_other (by omega), ih (by omega)]
      exact if_congr (by omega) rfl rfl

theorem Bank.delay_setRegion (b : Bank) (n : Nat) (r : Fin 16) (m k : Nat) :
    (b.setRegion n r).delay m k = b.delay m k := rfl

theorem Bank.count_setRegion (b : Bank) (n : Nat) (r : Fin 16) : (b.setRegion n r).count = b.count := rfl

theorem copyNode_spec (src : Bank) (n : Nat) (h : dst.storageWf) (m : Nat) :
    (∀ k, k < 48 → (copyNode src dst n).delay m k = if m = n then src.delay m k else dst.delay m k)
      ∧ (copyNode src dst n).region m = (if m = n then src.region m else dst.region m)
      ∧ (copyNode src dst n).count = dst.count := by
  obtain ⟨hregions, hcount⟩ := copyDelays_frame src dst n (List.range 48)
  refine ⟨fun k hk => ?_, ?_, by rw [copyNode, Bank.count_setRegion, hcount]⟩
  · have hdelay := copyDelays_delay src n h (m := m) hk 48 (Nat.le_refl 48)
    simp only [hk, and_true] at hdelay
    rw [copyNode, Bank.delay_setRegion, hdelay]
  · by_cases hm : m = n
    · rw [if_pos hm, hm, copyNode]
      exact Bank.region_setRegion_same (copyDelays_storageWf src n _ h) n _
    · rw [if_neg hm, copyNode, Bank.region_setRegion_other hm, Bank.region, hregions, Bank.region]

/-- A run of node records copied, delays and region together (R74). -/
theorem copyNodes_spec (src : Bank) (first n : Nat) (h : dst.storageWf) :
    (copyNodes src first n dst).storageWf ∧ (copyNodes src first n dst).count = dst.count
      ∧ ∀ m, (∀ k, k < 48 → (copyNodes src first n dst).delay m k
            = if first ≤ m ∧ m < first + n then src.delay m k else dst.delay m k)
        ∧ (copyNodes src first n dst).region m
            = if first ≤ m ∧ m < first + n then src.region m else dst.region m := by
  induction n with
  | zero =>
    exact ⟨h, rfl, fun m => ⟨fun k _ => (if_neg (by omega)).symm, (if_neg (by omega)).symm⟩⟩
  | succ n ih =>
    obtain ⟨hwf, hcount, hrecords⟩ := ih
    have hstep : copyNodes src first (n + 1) dst = copyNode src (copyNodes src first n dst) (first + n) := by
      simp only [copyNodes, List.range_succ, List.foldl_append, List.foldl_cons, List.foldl_nil]
    rw [hstep]
    refine ⟨copyNode_storageWf hwf src _, ?_, fun m => ?_⟩
    · obtain ⟨-, -, hsame⟩ := copyNode_spec src (first + n) hwf 0
      exact hsame.trans hcount
    · obtain ⟨hdelays, hregion, -⟩ := copyNode_spec src (first + n) hwf m
      obtain ⟨hdelays', hregion'⟩ := hrecords m
      by_cases hm : m = first + n
      · refine ⟨fun k hk => ?_, ?_⟩
        · rw [hdelays k hk, if_pos hm, if_pos (by omega)]
        · rw [hregion, if_pos hm, if_pos (by omega)]
      · refine ⟨fun k hk => ?_, ?_⟩
        · rw [hdelays k hk, if_neg hm, hdelays' k hk]
          exact if_congr (by omega) rfl rfl
        · rw [hregion, if_neg hm, hregion']
          exact if_congr (by omega) rfl rfl

end

/-! ### The end of a slice -/

section
variable {t : TableStore} {j : CopyJob}

/-- The slice that ends the job (R74). -/
theorem TableStore.copySlice_last (hcopy : t.copy = some j) (h : j.toCopy ≤ j.copied + j.slice) :
    t.copySlice = { t.setShadow { copyNodes t.activeBank j.copied j.slice t.shadowBank with count := j.toCopy } with
      copy := none } := by
  simp only [TableStore.copySlice, hcopy, if_pos h]

theorem TableStore.copySlice_more (hcopy : t.copy = some j) (h : ¬ j.toCopy ≤ j.copied + j.slice) :
    t.copySlice = { t.setShadow (copyNodes t.activeBank j.copied j.slice t.shadowBank) with
      copy := some { j with copied := j.copied + j.slice } } := by
  simp only [TableStore.copySlice, hcopy, if_neg h]

theorem TableStore.copySlice_last_shadow (hcopy : t.copy = some j) (h : j.toCopy ≤ j.copied + j.slice) :
    t.copySlice.shadowBank
      = { copyNodes t.activeBank j.copied j.slice t.shadowBank with count := j.toCopy } := by
  rw [TableStore.copySlice_last hcopy h]
  exact t.setShadow_shadowBank _

theorem TableStore.copySlice_more_shadow (hcopy : t.copy = some j) (h : ¬ j.toCopy ≤ j.copied + j.slice) :
    t.copySlice.shadowBank = copyNodes t.activeBank j.copied j.slice t.shadowBank := by
  rw [TableStore.copySlice_more hcopy h]
  exact t.setShadow_shadowBank _

/-- What a slice leaves of the store beside the shadow bank and the job. -/
theorem TableStore.copySlice_frame (t : TableStore) : t.copySlice.active = t.active
    ∧ t.copySlice.activeBank = t.activeBank ∧ t.copySlice.pointer = t.pointer
    ∧ t.copySlice.waitingRead = t.waitingRead ∧ t.copySlice.swapPending = t.swapPending := by
  unfold TableStore.copySlice
  split
  · exact ⟨rfl, rfl, rfl, rfl, rfl⟩
  · dsimp only
    split
    · exact ⟨t.setShadow_active _, t.setShadow_activeBank _, t.setShadow_pointer _, t.setShadow_waitingRead _,
        t.setShadow_swapPending _⟩
    · exact ⟨t.setShadow_active _, t.setShadow_activeBank _, t.setShadow_pointer _, t.setShadow_waitingRead _,
        t.setShadow_swapPending _⟩

/-- The records of a slice, and the count and the job that it leaves (R74). -/
theorem TableStore.copySlice_spec (hcopy : t.copy = some j) (hwf : t.shadowBank.storageWf)
    (hjob : j.copied ≤ j.toCopy) :
    (∀ m k, k < 48 → (j.copied ≤ m ∧ m < j.copied + 64 ∧ m < j.toCopy →
          t.copySlice.shadowBank.delay m k = t.activeBank.delay m k
          ∧ t.copySlice.shadowBank.region m = t.activeBank.region m)
        ∧ (m < j.copied ∨ j.copied + 64 ≤ m ∨ j.toCopy ≤ m →
          t.copySlice.shadowBank.delay m k = t.shadowBank.delay m k
          ∧ t.copySlice.shadowBank.region m = t.shadowBank.region m))
      ∧ (j.toCopy ≤ j.copied + 64 → t.copySlice.copy = none ∧ t.copySlice.shadowBank.count = j.toCopy)
      ∧ (j.copied + 64 < j.toCopy → t.copySlice.copy = some { toCopy := j.toCopy, copied := j.copied + 64 }
        ∧ t.copySlice.shadowBank.count = t.shadowBank.count) := by
  obtain ⟨-, hcount, hrecords⟩ := copyNodes_spec t.activeBank j.copied j.slice hwf
  have hslice : j.slice = min 64 (j.toCopy - j.copied) := rfl
  have hbank : t.copySlice.shadowBank.delays = (copyNodes t.activeBank j.copied j.slice t.shadowBank).delays
      ∧ t.copySlice.shadowBank.regions = (copyNodes t.activeBank j.copied j.slice t.shadowBank).regions := by
    by_cases hlast : j.toCopy ≤ j.copied + j.slice
    · rw [TableStore.copySlice_last_shadow hcopy hlast]
      exact ⟨rfl, rfl⟩
    · rw [TableStore.copySlice_more_shadow hcopy hlast]
      exact ⟨rfl, rfl⟩
  have hdelay (m k : Nat) : t.copySlice.shadowBank.delay m k
      = (copyNodes t.activeBank j.copied j.slice t.shadowBank).delay m k := by
    rw [Bank.delay, Bank.delay, hbank.1]
  have hregion (m : Nat) : t.copySlice.shadowBank.region m
      = (copyNodes t.activeBank j.copied j.slice t.shadowBank).region m := by
    rw [Bank.region, Bank.region, hbank.2]
  refine ⟨fun m k hk => ⟨fun hin => ?_, fun hout => ?_⟩, fun hlast => ?_, fun hmore => ?_⟩
  · obtain ⟨hdelays, hregions⟩ := hrecords m
    rw [hdelay, hregion, hdelays k hk, hregions, if_pos (by omega), if_pos (by omega)]
    exact ⟨rfl, rfl⟩
  · obtain ⟨hdelays, hregions⟩ := hrecords m
    rw [hdelay, hregion, hdelays k hk, hregions, if_neg (by omega), if_neg (by omega)]
    exact ⟨rfl, rfl⟩
  · have hends : j.toCopy ≤ j.copied + j.slice := by omega
    exact ⟨by rw [TableStore.copySlice_last hcopy hends], by rw [TableStore.copySlice_last_shadow hcopy hends]⟩
  · have hfull : j.slice = 64 := by omega
    have hgoes : ¬ j.toCopy ≤ j.copied + j.slice := by omega
    refine ⟨?_, by rw [TableStore.copySlice_more_shadow hcopy hgoes, hcount]⟩
    rw [TableStore.copySlice_more hcopy hgoes, hfull]

end

/-! ### The round behind a slice -/

/-- With no swap pending an idle round reaches its grant, and any other state stays as it is. -/
theorem State.serveIdle_eq {s : State} (hswap : s.tts.swapPending = false) (hround : s.tts.round = none) :
    s.serveIdle = s.withTts { s.tts with
      round := if s.stk.pass = none ∧ s.stk.origins = [] then s.tts.nextRound else none } := by
  by_cases hidle : s.stk.pass = none ∧ s.stk.origins = []
  · rw [if_pos hidle]
    have hfree : s.arbiterIdle = true := State.arbiterIdle_iff.mpr ⟨hidle.1, hidle.2, hround⟩
    cases hwaits : s.tts.waits with
    | true => rw [State.serveIdle_of_idle hfree hwaits, State.startRound_of_no_swap hswap, TableStore.reachRead_eq]
    | false =>
      have hnothing : s.tts.nextRound = s.tts.round := by
        simp only [TableStore.waits, Bool.or_eq_false_iff, Option.isSome_eq_false_iff, Option.isNone_iff_eq_none]
          at hwaits
        obtain ⟨⟨-, hread⟩, hcopy⟩ := hwaits
        simp [TableStore.nextRound, hread, hcopy, hround]
      rw [State.serveIdle_of_nothing hwaits, hnothing]
      rfl
  · have hbusy : s.arbiterIdle = false := State.arbiterIdle_eq_false (by tauto)
    rw [if_neg hidle, ← hround, State.serveIdle_of_busy hbusy]
    rfl

/-- BANK COPY's own work (R73). -/
theorem applyBankCopy_eq (body : List Byte) (s : State) : applyBankCopy body s
    = ((s.withTts { s.tts with copy := some { toCopy := s.tts.activeBank.count, copied := 0 } }).serveIdle,
      [0x00] ++ le 2 s.tts.activeBank.count) := rfl

/-- Settles O28: the job begun, and the end of a slice with the round that follows. -/
theorem bankCopyCopiesBySlices : Obligations.BankCopyCopiesBySlices := by
  refine ⟨fun s tag hready hopen hread => ?_, fun s n j hcomes hcopy hwf hswap hjob => ?_⟩
  · obtain ⟨-, hswap⟩ := TableStore.locked_eq_false_iff.mp hopen
    have hserved : (s.counted.withTts { s.tts with
        copy := some { toCopy := s.tts.activeBank.count, copied := 0 } }).serveIdle
        = s.counted.withTts { s.tts with
          copy := some { toCopy := s.tts.activeBank.count, copied := 0 }
          round := if s.stk.pass = none ∧ s.stk.origins = [] ∧ s.tts.round = none then
              some { grant := .slice, cyclesLeft := 16 * min 64 s.tts.activeBank.count }
            else s.tts.round } := by
      by_cases hround : s.tts.round = none
      · rw [State.serveIdle_eq (by exact hswap) (by exact hround)]
        simp only [State.withTts_tts, State.withTts_stk, State.counted_stk, hround, and_true, TableStore.nextRound,
          hread, Option.isSome_none, Bool.false_eq_true, if_false, Option.map_some, Nat.sub_zero]
        rfl
      · have hbusy : (s.counted.withTts { s.tts with
            copy := some { toCopy := s.tts.activeBank.count, copied := 0 } }).arbiterIdle = false :=
          State.arbiterIdle_eq_false (.inr (.inr hround))
        rw [State.serveIdle_of_busy hbusy, if_neg (by tauto)]
    have hwork := (applyBankCopy_eq [] s.counted).trans (congrArg (·, _) hserved)
    exact exec_request_replied hready .bankCopy tag rfl rfl hopen (congrArg answered hwork) rfl
  · have hcopy' : (s.elapse n).tts.copy = some j := hcopy
    obtain ⟨hactive, hactiveBank, hpointer, hread, hpending⟩ := (s.elapse n).tts.copySlice_frame
    have hshadow : (s.elapse n).tts.shadowBank.storageWf := by
      obtain ⟨-, -, hbankA, hbankB⟩ := hwf
      show (s.tts.bank s.tts.active.other).storageWf
      cases s.tts.active
      · exact hbankB
      · exact hbankA
    obtain ⟨hrecords, hlast, hmore⟩ := TableStore.copySlice_spec hcopy' hshadow hjob
    have hserved : (s.elapse n).endSlice = _ := State.serveIdle_eq
      (s := (s.elapse n).withTts { (s.elapse n).tts.copySlice with round := none }) (hpending.trans hswap) rfl
    refine ⟨(s.elapse n).endSlice, congrArg Host.Outcome.next (State.comeAbout_of_comesIn hcomes _), ?_⟩
    rw [hserved]
    refine ⟨hactive, hactiveBank, hpointer, hread, hpending.trans hswap, hrecords, hlast, hmore, ?_, rfl, rfl, rfl, rfl,
      rfl, rfl, rfl, rfl, rfl, rfl⟩
    have hidle : (s.elapse n).stk.pass = none ↔ s.stk.pass = none := Option.map_eq_none_iff
    have hnext : ({ (s.elapse n).tts.copySlice with round := none } : TableStore).nextRound
        = if s.tts.waitingRead.isSome then some { grant := .read, cyclesLeft := 128 }
          else if j.copied + 64 < j.toCopy then
            some { grant := .slice, cyclesLeft := 16 * min 64 (j.toCopy - (j.copied + 64)) }
          else none := by
      have hread' : (s.elapse n).tts.copySlice.waitingRead = s.tts.waitingRead := hread
      simp only [TableStore.nextRound, hread']
      refine if_congr Iff.rfl rfl ?_
      split
      next hm =>
        obtain ⟨hjobs, -⟩ := hmore hm
        rw [hjobs]
        rfl
      next hm =>
        obtain ⟨hjobs, -⟩ := hlast (Nat.le_of_not_lt hm)
        rw [hjobs]
        rfl
    simp only [State.withTts_tts, State.withTts_stk, hidle, hnext]
    rfl

/-! ### BANK ACTIVATE -/

section
variable {s : State} (body : List Byte)

theorem applyBankActivate_refused (h : s.tts.shadowBank.count = 0) :
    applyBankActivate body s = (s, [statusBadField]) := if_pos h

theorem applyBankActivate_standby (h : s.tts.shadowBank.count ≠ 0) (hmode : s.mode = .standby) :
    applyBankActivate body s = (s.swap, [0x00, s.tts.active.other.code, 0]) := by
  simp only [applyBankActivate, if_neg h, if_pos hmode, State.swap_tts]
  rfl

theorem applyBankActivate_run (h : s.tts.shadowBank.count ≠ 0) (hmode : s.mode ≠ .standby) :
    applyBankActivate body s
      = ((s.withTts { s.tts with swapPending := true }).serveIdle, [0x00, s.tts.active.code, 1]) := by
  simp only [applyBankActivate, if_neg h, if_neg hmode]
  rfl

end

/-- The swap of a part whose port has counted the frame, with the grants that follow it. -/
theorem State.counted_closeAll (s : State) (reason : CloseReason) :
    s.counted.closeAll reason = (s.closeAll reason).withCpt s.counted.cpt :=
  (withCpt_blind s.counted.cpt).closeAll s reason

/-- Settles O29: refused, left pending, and the swap made at once. -/
theorem bankActivateSwapsOrWaits : Obligations.BankActivateSwapsOrWaits := by
  intro s tag hready hopen hread
  obtain ⟨hcopy, hswap⟩ := TableStore.locked_eq_false_iff.mp hopen
  refine ⟨fun hempty => ?_, fun hcount hmode hbusy => ?_, fun hcount hnow => ?_⟩
  · exact exec_badField hready .bankActivate tag rfl rfl hopen
      (congrArg answered (applyBankActivate_refused (s := s.counted) [] hempty))
  · have hserved : (s.counted.withTts { s.tts with swapPending := true }).serveIdle
        = s.counted.withTts { s.tts with swapPending := true } :=
      State.serveIdle_of_busy (State.arbiterIdle_eq_false hbusy)
    have hwork := (applyBankActivate_run (s := s.counted) [] hcount hmode).trans (congrArg (·, _) hserved)
    exact exec_request_replied hready .bankActivate tag rfl rfl hopen (congrArg answered hwork) rfl
  · have hclose := State.counted_closeAll s .table
    have hcpt : s.counted.swap.cpt = s.counted.cpt := s.counted.swap_serves.cpt
    by_cases hmode : s.mode = .standby
    · rw [if_pos hmode]
      have hexec := exec_request_replied hready .bankActivate tag rfl rfl hopen
        (congrArg answered (applyBankActivate_standby (s := s.counted) [] hcount hmode)) hcpt
      rw [State.swap_parts, hclose] at hexec
      refine hexec.trans ?_
      generalize s.closeAll .table = u
      rfl
    · rw [if_neg hmode]
      obtain ⟨hpass, horigins, hround⟩ := hnow.resolve_left hmode
      have hserved := State.serveIdle_of_idle (s := s.counted.withTts { s.tts with swapPending := true })
        (State.arbiterIdle_iff.mpr ⟨hpass, horigins, hround⟩) rfl
      rw [State.startRound_swapped (by rfl), (withTts_blind { s.tts with swapPending := true }).closeAll, hclose]
        at hserved
      have hwork := (applyBankActivate_run (s := s.counted) [] hcount hmode).trans (congrArg (·, _) hserved)
      have hnone : s.tts.nextRound = s.tts.round := by simp [TableStore.nextRound, hread, hcopy, hround]
      generalize s.closeAll .table = u at hwork
      refine (exec_request_replied hready .bankActivate tag rfl rfl hopen (congrArg answered hwork) rfl).trans ?_
      have hround' : ({ s.tts with swapPending := true } : TableStore).nextRound = s.tts.round := hnone
      simp only [State.withTts_tts, hround']
      rfl

end Sys2Proof.Machine

/-! PROOFS. The pass start (R86 to R89), the monitor tap at a pass end (R102 to R105), the end of a pass with the round
that follows it (R97, R76 to R79), and a dead count that runs out in it (R123). -/

namespace Sys2Proof.Machine

/-! ### The pass start -/

section
variable {s : State}

theorem State.dueIn_passStart (s : State) : s.dueIn .passStart
    = if s.stk.pass = none ∧ s.tts.round = none ∧ s.stk.origins ≠ [] then some 0 else none := by
  simp [State.dueIn, dueNow, State.passStartDue, and_assoc]

theorem State.startPass_eq {o : Nat} {rest : List Nat} (h : s.stk.origins = o :: rest) :
    s.startPass = s.withStk { s.stk with origins := rest, pass := some (s.passContext o), skippedSince := 0 } := by
  simp only [State.startPass, h, State.withStk]

theorem State.passContext_channel (s : State) (o : Nat) (k : Fin 48) :
    (s.passContext o).channels[k] = .ofChannel s.ccu.channels[k] :=
  Vector.getElem_ofFn k.isLt

theorem State.passContext_region (s : State) (o : Nat) (r : Fin 16) :
    (s.passContext o).regions[r] = .ofRegion s.evb.regions[r] :=
  Vector.getElem_ofFn r.isLt

end

/-- Settles O31: no pass without an origin, a free engine and a free arbiter; otherwise the head and the context. -/
theorem passStartFixesTheContext : Obligations.PassStartFixesTheContext := by
  refine fun s => ⟨fun hbusy hround => ?_, fun o rest hpass hround horigins => ?_⟩
  · refine congrArg Host.Outcome.next ?_
    rcases s.comeAbout_cases .passStart State.startPass with heq | ⟨n, ⟨hdue, -⟩, -⟩
    · rw [heq, State.serveIdle_of_not_due hround]
    · rw [State.serveIdle_of_not_due hround, State.dueIn_passStart, if_neg (by tauto)] at hdue
      cases hdue
  · have hdue : s.dueIn .passStart = some 0 := by
      rw [State.dueIn_passStart, if_pos ⟨hpass, hround, by rw [horigins]; nofun⟩]
    have hnone : s.roundDue = false := by
      rw [State.roundDue, State.arbiterIdle_eq_false (.inr (.inl (by rw [horigins]; nofun))), Bool.false_and]
    refine ⟨s.passContext o, ?_, rfl, rfl, rfl, rfl, s.passContext_channel o, s.passContext_region o,
      rfl, rfl, rfl, rfl⟩
    exact congrArg Host.Outcome.next ((State.comeAbout_of_due hdue hnone _).trans (State.startPass_eq horigins))

/-! ### The monitor tap -/

section
variable {s : State} {p : PassContext} {d : PassResult} {v : TapValue}

theorem MonitorBlock.markGap_eq (n : Nat) (b : MonitorBlock) :
    b.markGap n = { b with gap := b.gap || decide (1 ≤ n ∧ b.values ≠ []) } := by
  cases hvalues : b.values <;> simp [MonitorBlock.markGap, hvalues]

theorem MonitorBlock.keep_eq (v : TapValue) (d : PassResult) (b : MonitorBlock) : b.keep v d = if b.values = [] then
      { b with values := [v], bank := d.bank, firstOrigin := d.origin, firstLabel := d.label }
    else { b with values := b.values ++ [v] } := by
  simp [MonitorBlock.keep]

theorem MonitorBlock.keep_length (v : TapValue) (d : PassResult) (b : MonitorBlock) :
    (b.keep v d).values.length = b.values.length + 1 := by
  rw [MonitorBlock.keep_eq]
  split
  next h => rw [h]; rfl
  next => exact List.length_append

/-- No offer from a pass whose latch is disabled or that was marked as changed (R102). -/
theorem State.offerTap_none (h : p.tapEnabled = false ∨ p.tapChanged = true) : s.offerTap p d v = s := by
  have hoff : ¬ (p.tapEnabled && !p.tapChanged) = true := by rcases h with h | h <;> simp [h]
  exact if_neg hoff

theorem State.offerTap_skips (hon : p.tapEnabled = true) (hsame : p.tapChanged = false) (h : s.stk.countdown ≠ 0) :
    s.offerTap p d v = s.withStk { s.stk with
      block := s.stk.block.markGap p.skippedBefore, countdown := s.stk.countdown - 1 } := by
  simp only [State.offerTap, hon, hsame, h, Bool.not_false, Bool.and_true, if_true, if_false, State.withStk]

theorem State.offerTap_keeps (hon : p.tapEnabled = true) (hsame : p.tapChanged = false) (h : s.stk.countdown = 0) :
    s.offerTap p d v = (s.withStk { s.stk with
      block := (s.stk.block.markGap p.skippedBefore).keep v d, countdown := s.stk.tapSkip }).completeBlock
      p.origin := by
  simp only [State.offerTap, hon, hsame, h, Bool.not_false, Bool.and_true, if_true, State.withStk]

theorem State.completeBlock_short (h : s.stk.block.values.length < 32) (o : Nat) : s.completeBlock o = s :=
  if_pos h

theorem Reports.append_eq (q : Reports) (x : Summary) : q.append x
    = { q with summaries := q.summaries ++ [x], attn := decide (q.threshold ≤ q.summaries.length + 1) } := by
  simp only [Reports.append, Reports.judge, Reports.attnLevel, List.length_append, List.length_singleton]

/-- A block of 32 values finds room (R104). -/
theorem State.completeBlock_admitted (h : 32 ≤ s.stk.block.values.length) (hroom : s.rpq.summaries.length ≤ 56)
    (o : Nat) : s.completeBlock o = (s.withStk { s.stk with block := .empty, lostBlocks := 0 }).withRpq (s.rpq.append
      (.monitor { node := s.stk.tapNode, skip := s.stk.tapSkip, lastOrigin := o, block := s.stk.block,
                  lostBlocks := s.stk.lostBlocks })) := by
  have hadmits : s.rpq.admitsMonitor = true := decide_eq_true hroom
  simp only [State.completeBlock, if_neg (Nat.not_lt.mpr h), hadmits, if_true, State.withStk, State.withRpq]

/-- One that finds none is counted as lost (R105). -/
theorem State.completeBlock_lost (h : 32 ≤ s.stk.block.values.length) (hfull : 56 < s.rpq.summaries.length)
    (o : Nat) : s.completeBlock o
      = s.withStk { s.stk with block := .empty, lostBlocks := min 65535 (s.stk.lostBlocks + 1) } := by
  have hadmits : s.rpq.admitsMonitor = false := decide_eq_false (Nat.not_le.mpr hfull)
  simp only [State.completeBlock, if_neg (Nat.not_lt.mpr h), hadmits, Bool.false_eq_true, if_false, satInc_eq_min,
    State.withStk]

end

/-- Settles O35: no offer, a pass skipped, a value kept, and the block that becomes full. -/
theorem monitorTapKeepsItsValues : Obligations.MonitorTapKeepsItsValues := by
  intro s p d v b c hb hc
  rw [← MonitorBlock.markGap_eq] at hb
  rw [← MonitorBlock.keep_eq] at hc
  have hlength : c.values.length = b.values.length + 1 := by rw [hc]; exact MonitorBlock.keep_length v d b
  refine ⟨State.offerTap_none, fun hon hsame => ⟨fun hcount => ?_, fun hcount hshort => ?_,
    fun hcount hlong hroom => ?_, fun hcount hlong hfull => ?_⟩⟩
  · rw [State.offerTap_skips hon hsame hcount, ← hb]
    rfl
  all_goals
    rw [State.offerTap_keeps hon hsame hcount, ← hb, ← hc]
    generalize hu : s.withStk { s.stk with block := c, countdown := s.stk.tapSkip } = u
    have hblock : u.stk.block.values.length = b.values.length + 1 := by rw [← hu]; exact hlength
    have hreports : u.rpq = s.rpq := by rw [← hu]; rfl
  · rw [State.completeBlock_short (by omega), ← hu]
    rfl
  · rw [State.completeBlock_admitted (by omega) (by rw [hreports]; exact hroom), Reports.append_eq, ← hu]
    rfl
  · rw [State.completeBlock_lost (by omega) (by rw [hreports]; exact hfull), ← hu]
    rfl

/-! ### The end of a pass -/

section
variable {s : State} {p : PassContext} {d : PassResult} {v : TapValue}

theorem State.completeBlock_elapse (n o : Nat) : (s.elapse n).completeBlock o = (s.completeBlock o).elapse n := by
  rcases Nat.lt_or_ge s.stk.block.values.length 32 with hshort | hlong
  · rw [State.completeBlock_short hshort]
    exact State.completeBlock_short (s := s.elapse n) hshort o
  · rcases Nat.lt_or_ge 56 s.rpq.summaries.length with hfull | hroom
    · rw [State.completeBlock_lost hlong hfull]
      exact State.completeBlock_lost (s := s.elapse n) hlong hfull o
    · rw [State.completeBlock_admitted hlong hroom]
      exact State.completeBlock_admitted (s := s.elapse n) hlong hroom o

/-- The tap does not see how long the pass has run. -/
theorem State.offerTap_elapse (n c : Nat) :
    (s.elapse n).offerTap { p with cycles := c } d v = (s.offerTap p d v).elapse n := by
  by_cases hon : p.tapEnabled = true ∧ p.tapChanged = false
  · obtain ⟨hon, hsame⟩ := hon
    by_cases hcount : s.stk.countdown = 0
    · rw [State.offerTap_keeps hon hsame hcount, ← State.completeBlock_elapse]
      exact State.offerTap_keeps (s := s.elapse n) (p := { p with cycles := c }) hon hsame hcount
    · rw [State.offerTap_skips hon hsame hcount]
      exact State.offerTap_skips (s := s.elapse n) (p := { p with cycles := c }) hon hsame hcount
  · have hoff : p.tapEnabled = false ∨ p.tapChanged = true :=
      (not_and_or.mp hon).imp eq_false_of_ne_true eq_true_of_ne_false
    rw [State.offerTap_none hoff]
    exact State.offerTap_none (p := { p with cycles := c }) hoff

theorem State.completeBlock_passCount (o : Nat) : (s.completeBlock o).stk.passCount = s.stk.passCount := by
  unfold State.completeBlock
  split
  · rfl
  · dsimp only
    split <;> rfl

theorem State.offerTap_passCount : (s.offerTap p d v).stk.passCount = s.stk.passCount := by
  unfold State.offerTap
  split
  · dsimp only
    split
    · exact State.completeBlock_passCount _
    · rfl
  · rfl

/-- The pass result as the model and the statements write it. -/
theorem State.passResult_eq (s : State) (p : PassContext) : s.passResult p
    = { origin := p.origin, skippedBefore := p.skippedBefore, bank := p.bank,
        label := Memory.read .cleared s.ccu.labelRing (p.origin % 256),
        best := p.bestsAfter s.ccu (s.tts.bank p.bank) p.nodeCount } := rfl

theorem State.tapValue_eq (s : State) (p : PassContext) : s.tapValue p
    = { m := (p.stackOf s.ccu (s.tts.bank p.bank) p.tapNode).m,
        valid := decide ((p.stackOf s.ccu (s.tts.bank p.bank) p.tapNode).wsum ≠ 0),
        fired := (p.stackOf s.ccu (s.tts.bank p.bank) p.tapNode).fires } := by
  simp only [State.tapValue, bne, decide_not, beq_eq_decide]

end

/-- A pass finished `n` cycles from now: what the pass result and the tap make of the present state, later. -/
def State.finishedPass (s : State) (p : PassContext) (n : Nat) : State :=
  let u := ((s.takePassResult (s.passResult p)).offerTap p (s.passResult p) (s.tapValue p)).elapse n
  u.withStk { u.stk with pass := none, passCount := min 4294967295 (s.stk.passCount + 1) }

section
variable {s : State} {p : PassContext}

theorem State.finishPass_elapse (n c : Nat) :
    (s.elapse n).finishPass { p with cycles := c } = s.finishedPass p n := by
  have htake := (elapse_blind n).takePassResult s (s.passResult p)
  have hcount : ((s.takePassResult (s.passResult p)).offerTap p (s.passResult p) (s.tapValue p)).stk.passCount
      = s.stk.passCount := by
    rw [State.offerTap_passCount, (s.takePassResult_builds (s.passResult p)).stk]
  have hunfold := (s.elapse n).finishPass_unfold { p with cycles := c } _ rfl
  have hresult : (s.elapse n).passResult { p with cycles := c } = s.passResult p := rfl
  have hvalue : (s.elapse n).tapValue { p with cycles := c } = s.tapValue p := rfl
  rw [hresult, hvalue, htake, State.offerTap_elapse] at hunfold
  rw [hunfold, State.finishedPass]
  generalize (s.takePassResult (s.passResult p)).offerTap p (s.passResult p) (s.tapValue p) = u at hcount
  rw [satInc_eq_min, ← hcount]
  rfl

/-- The blocks that the end of a pass leaves to the round. -/
theorem State.finishedPass_blocks (n : Nat) :
    (s.finishedPass p n).pending = s.pending ∧ (s.finishedPass p n).trx = s.trx ∧ (s.finishedPass p n).ccu = s.ccu
      ∧ (s.finishedPass p n).tbu = s.tbu.elapse n ∧ (s.finishedPass p n).tts = s.tts.elapse n
      ∧ (s.finishedPass p n).cpt = s.cpt.elapse n ∧ (s.finishedPass p n).mdc = s.mdc
      ∧ (s.finishedPass p n).evb = (s.takePassResult (s.passResult p)).evb
      ∧ (s.finishedPass p n).exu = (s.takePassResult (s.passResult p)).exu := by
  obtain ⟨hpending, htrx, hccu, htbu, htts, -, hcpt, hmdc⟩ := s.takePassResult_builds (s.passResult p)
  obtain ⟨q, e, htap, -⟩ := (s.takePassResult (s.passResult p)).offerTap_eq p (s.passResult p) (s.tapValue p)
  unfold State.finishedPass
  rw [htap]
  generalize s.takePassResult (s.passResult p) = u at *
  exact ⟨hpending, htrx, hccu, congrArg (Timebase.elapse n) htbu, congrArg (TableStore.elapse n) htts,
    congrArg (ControlPort.elapse n) hcpt, hmdc, rfl, rfl⟩

/-- The end of a pass: the pass finished, then the round. -/
theorem State.endPass_elapse (hpass : s.stk.pass = some p) (n : Nat) :
    (s.elapse n).endPass = (s.finishedPass p n).startRound := by
  have hlater : (s.elapse n).stk.pass = some { p with cycles := p.cycles + 2 * n } := by
    rw [State.elapse_stk, Engine.elapse, hpass]
    rfl
  simp only [State.endPass, hlater]
  rw [State.finishPass_elapse]

/-- Both rows of a pass end take it (R123), 8 engine cycles for each node after the start (R90). -/
theorem exec_passEnd {e : Instr} {n : Nat} (he : e = .passEnd ∨ ∃ r, e = .deadCountEnd r) (hcomes : s.comesIn e n)
    (hpass : s.stk.pass = some p) :
    exec e s = .next (s.finishedPass p n).startRound ∧ n = (8 * p.nodeCount - p.cycles + 1) / 2 := by
  have hends : s.passEndIn = some ((8 * p.nodeCount - p.cycles + 1) / 2) := by
    rw [State.passEndIn, hpass]
    rfl
  have htake := (State.comeAbout_of_comesIn hcomes State.endPass).trans (State.endPass_elapse hpass n)
  obtain ⟨hdue, -⟩ := hcomes
  rcases he with rfl | ⟨r, rfl⟩
  · exact ⟨congrArg Host.Outcome.next htake, Option.some.inj (hdue.symm.trans hends)⟩
  · simp only [State.dueIn] at hdue
    split at hdue
    · exact ⟨congrArg Host.Outcome.next htake, Option.some.inj (hdue.symm.trans hends)⟩
    · cases hdue

end

/-- Settles O34: the pass finished, and the two rounds that can follow. -/
theorem passEndDeliversAndCounts : Obligations.PassEndDeliversAndCounts := by
  intro s n e p d v k round he hcomes hpass hd hk hv hround
  rw [← State.passResult_eq] at hd
  rw [hk, ← State.tapValue_eq] at hv
  subst hd hv
  obtain ⟨hexec, hn⟩ := exec_passEnd he hcomes hpass
  obtain ⟨hpending, htrx, hccu, htbu, htts, hcpt, hmdc, hevb, hexu⟩ := s.finishedPass_blocks (p := p) n
  have hnext : (s.finishedPass p n).tts.nextRound = round := by rw [htts, hround]; rfl
  refine ⟨_, s.finishedPass p n, hexec, hn, hevb, hexu, rfl, rfl, htts, htbu, hcpt, hpending, htrx, hccu, hmdc,
    fun hswap => ?_, fun hswap => ?_⟩
  · have hswap' : (s.finishedPass p n).tts.swapPending = false := by rw [htts]; exact hswap
    rw [State.startRound_of_no_swap hswap', TableStore.reachRead_eq, hnext, htts]
    rfl
  · have hswap' : (s.finishedPass p n).tts.swapPending = true := by rw [htts]; exact hswap
    rw [State.startRound_swapped hswap', State.swapNotice_eq, hnext, htts]
    generalize (s.finishedPass p n).closeAll .table = u
    rfl

/-! ### A dead count that runs out -/

section
variable {s : State} {r : Fin 16} {d : PassResult}

theorem Region.deadStep_last (g : Region) {n : Nat} (h : n ≤ 1) : g.deadStep n = g.becomeIdle := if_pos h

theorem Region.deadStep_more (g : Region) {n : Nat} (h : 1 < n) : g.deadStep n = { g with slot := .dead (n - 1) } :=
  if_neg (Nat.not_le.mpr h)

/-- A dead count of more than the skipped origins outlasts them. -/
theorem skippedOrigins_dead (m : Nat) : ∀ {s : State} {n : Nat}, s.evb.regions[r].slot = .dead n → m < n →
    ((fun u : State => u.regionOrigin true d r)^[m] s).evb.regions[r]
      = { s.evb.regions[r] with slot := .dead (n - m) } := by
  induction m with
  | zero => exact fun hslot _ => by rw [Nat.sub_zero, ← hslot]; rfl
  | succ m ih =>
    intro s n hslot hlt
    have hstep : (s.regionOrigin true d r).evb.regions[r] = { s.evb.regions[r] with slot := .dead (n - 1) } := by
      rw [State.regionOrigin_of_dead hslot, State.onRegion_same, Region.deadStep_more _ (by omega)]
    rw [Function.iterate_succ_apply, ih (n := n - 1) (by rw [hstep]) (by omega), hstep]
    have hsub : n - 1 - m = n - (m + 1) := by omega
    rw [hsub]

/-- An IDLE region stays as it is at every skipped origin (R118). -/
theorem skippedOrigins_idle (m : Nat) : ∀ {s : State}, s.evb.regions[r].slot = .idle →
    ((fun u : State => u.regionOrigin true d r)^[m] s).evb.regions[r] = s.evb.regions[r] := by
  induction m with
  | zero => exact fun _ => rfl
  | succ m ih =>
    intro s hslot
    rw [Function.iterate_succ_apply, State.regionOrigin_of_idle_of_noBest hslot (.inl rfl), ih hslot]

/-- One that they cover runs out in them. -/
theorem skippedOrigins_runsOut {m n : Nat} (hslot : s.evb.regions[r].slot = .dead n) (hn : 1 ≤ n) (h : n ≤ m) :
    ((fun u : State => u.regionOrigin true d r)^[m] s).evb.regions[r] = s.evb.regions[r].becomeIdle := by
  have hsplit : m = (m - n) + 1 + (n - 1) := by omega
  have hdead := skippedOrigins_dead (d := d) (n - 1) hslot (by omega)
  have hone : n - (n - 1) = 1 := by omega
  rw [hone] at hdead
  rw [hsplit, Function.iterate_add_apply, Function.iterate_succ_apply]
  generalize (fun u : State => u.regionOrigin true d r)^[n - 1] s = u at hdead
  have hstep : (u.regionOrigin true d r).evb.regions[r] = s.evb.regions[r].becomeIdle := by
    rw [State.regionOrigin_of_dead (by rw [hdead]), State.onRegion_same, Region.deadStep_last _ (Nat.le_refl 1), hdead]
    rfl
  rw [skippedOrigins_idle (m - n) (by rw [hstep]; rfl), hstep]

/-- What a pass result makes of a region whose dead count runs out in it. -/
theorem State.takePassResult_deadCountEnds {n : Nat} (hslot : s.evb.regions[r].slot = .dead n) (hn : 1 ≤ n)
    (h : n ≤ d.skippedBefore + 1) {g : Region} (hg : g = s.evb.regions[r].becomeIdle) :
    (n = d.skippedBefore + 1 ∨ g.inForce = false → (s.takePassResult d).evb.regions[r] = g)
      ∧ ((s.takePassResult d).evb.regions[r] = g ∨ ∃ b, d.best[r] = some b
        ∧ (s.takePassResult d).evb.regions[r] = { g with slot := .opened (.ofBest b d) }) := by
  rw [regionsTakeOriginsIndependently s d r]
  rcases Nat.lt_or_ge d.skippedBefore n with hlast | hsooner
  · have hone : n - d.skippedBefore = 1 := by omega
    have hdead := skippedOrigins_dead (d := d) d.skippedBefore hslot hlast
    rw [hone] at hdead
    generalize (fun u : State => u.regionOrigin true d r)^[d.skippedBefore] s = u at hdead
    have hend : (u.regionOrigin false d r).evb.regions[r] = g := by
      rw [State.regionOrigin_of_dead (by rw [hdead]), State.onRegion_same, Region.deadStep_last _ (Nat.le_refl 1),
        hdead, hg]
      rfl
    exact ⟨fun _ => hend, .inl hend⟩
  · have hidle := skippedOrigins_runsOut (d := d) hslot hn hsooner
    rw [← hg] at hidle
    generalize (fun u : State => u.regionOrigin true d r)^[d.skippedBefore] s = u at hidle
    have hslot' : u.evb.regions[r].slot = .idle := by rw [hidle, hg]; rfl
    cases hbest : d.best[r] with
    | none =>
      have hstays : (u.regionOrigin false d r).evb.regions[r] = g := by
        rw [State.regionOrigin_of_idle_of_noBest hslot' (.inr hbest), hidle]
      exact ⟨fun _ => hstays, .inl hstays⟩
    | some b =>
      rw [State.regionOrigin_of_idle_of_best hslot' hbest, hidle]
      by_cases hforce : g.inForce = true
      · rw [if_pos hforce, State.keepOpen_region, hidle]
        exact ⟨fun h => h.elim (fun h => absurd h (by omega)) fun h => absurd (hforce.symm.trans h) nofun,
          .inr ⟨b, rfl, rfl⟩⟩
      · rw [if_neg hforce]
        exact ⟨fun _ => hidle, .inl hidle⟩

/-- The regions after the round of a pass end: those of the pass result, a candidate closed where a swap is pending. -/
theorem State.finishedPass_round_region (p : PassContext) (n : Nat) :
    (s.finishedPass p n).startRound.evb.regions[r]
      = if s.tts.swapPending then
          ((s.takePassResult (s.passResult p)).closeOpen .table r).evb.regions[r]
        else (s.takePassResult (s.passResult p)).evb.regions[r] := by
  obtain ⟨-, -, -, -, htts, -, -, hevb, -⟩ := s.finishedPass_blocks (p := p) n
  have hpending : (s.finishedPass p n).tts.swapPending = s.tts.swapPending := by rw [htts]; rfl
  cases hswap : s.tts.swapPending with
  | false =>
    rw [State.startRound_of_no_swap (hpending.trans hswap), State.withTts_evb, hevb]
    rfl
  | true =>
    rw [State.startRound_swapped (hpending.trans hswap), State.withStk_evb, State.withTts_evb, State.closeAll_region,
      State.closeOpen_region, hevb, ← State.closeOpen_region]
    rfl

end

/-- Settles O40: the skipped origins, the evaluated one, and the swap of the round. -/
theorem deadCountRunsOut : Obligations.DeadCountRunsOut := by
  intro s n count r p g hcomes hpass hslot hg
  obtain ⟨hexec, -⟩ := exec_passEnd (.inr ⟨r, rfl⟩) hcomes hpass
  obtain ⟨hlow, hhigh⟩ : 1 ≤ count ∧ count ≤ p.skippedBefore + 1 := by
    obtain ⟨hdue, -⟩ := hcomes
    simp only [State.dueIn] at hdue
    split at hdue
    next hends =>
      simp only [State.deadCountEndsInPass, hpass, hslot, Bool.and_eq_true, decide_eq_true_eq] at hends
      exact hends
    next => cases hdue
  obtain ⟨hstays, hopens⟩ := State.takePassResult_deadCountEnds (d := s.passResult p) hslot hlow hhigh (g := g) hg
  have hidle : g.slot = .idle := by rw [hg]
  have hkeep (h : (s.takePassResult (s.passResult p)).evb.regions[r] = g) :
      (s.finishedPass p n).startRound.evb.regions[r] = g := by
    rw [State.finishedPass_round_region, State.closeOpen_region, h]
    simp only [hidle, ite_self]
  refine ⟨_, hexec, hlow, hhigh, fun h => hkeep (hstays h), ?_⟩
  rcases hopens with hg' | ⟨b, hbest, hopened⟩
  · exact .inl (hkeep hg')
  · refine .inr ⟨b, hbest, ?_⟩
    rw [State.finishedPass_round_region, State.closeOpen_region, hopened]
    cases s.tts.swapPending with
    | false => rfl
    | true =>
      simp only [Region.afterClose_eq, if_true, Bool.true_eq_false, if_false]
      rw [← hidle]

end Sys2Proof.Machine

/-! PROOFS. Block-shift encoding (R142, R143), the cut of a window against the epochs held (R136, R139), and the order
of the segments (R144). -/

namespace Sys2Proof.Machine

/-! ### The shift -/

theorem Width.top_pow_le (w : Width) {m n : Nat} (h : m ≤ n) : w.top * 2 ^ m ≤ w.top * 2 ^ n :=
  Nat.mul_le_mul_left _ (Nat.pow_le_pow_right Nat.zero_lt_two h)

/-- The shift is the first at which the peak fits, or else the greatest. -/
theorem shiftFor_spec (w : Width) (p : Nat) : shiftFor w p ≤ w.maxShift
    ∧ (∀ j, j < shiftFor w p → w.top * 2 ^ j < p)
    ∧ (shiftFor w p < w.maxShift → p ≤ w.top * 2 ^ shiftFor w p) := by
  unfold shiftFor
  cases hfind : (List.range (w.maxShift + 1)).find? fun s => p ≤ w.top * 2 ^ s with
  | none =>
    have hnever : ∀ j, j < w.maxShift + 1 → w.top * 2 ^ j < p := by simpa using hfind
    exact ⟨Nat.le_refl _, fun j hj => hnever j (Nat.lt_succ_of_lt hj), fun h => absurd h (Nat.lt_irrefl _)⟩
  | some n =>
    obtain ⟨hfits, hrange, hfirst⟩ := List.find?_range_eq_some.mp hfind
    refine ⟨Nat.le_of_lt_succ (List.mem_range.mp hrange), fun j hj => ?_, fun _ => of_decide_eq_true hfits⟩
    simpa using hfirst j hj

/-- A peak that fits at the greatest shift fits at its own. -/
theorem shiftFor_fits {w : Width} {p : Nat} (h : p ≤ w.top * 2 ^ w.maxShift) : p ≤ w.top * 2 ^ shiftFor w p := by
  obtain ⟨hmax, -, hfits⟩ := shiftFor_spec w p
  rcases Nat.lt_or_eq_of_le hmax with hlt | heq
  · exact hfits hlt
  · rwa [heq]

theorem Segment.natAbs_le_peak (g : Segment) {y : RawEntry} (h : y ∈ g.samples) : y.value.natAbs ≤ g.peak :=
  ((foldl_max_le (fun y : RawEntry => y.value.natAbs) _ g.samples 0).mp (Nat.le_refl g.peak)).2 y h

/-! ### The encoded sample -/

/-- A shift rounds half up: what it decodes to is within half a unit. -/
theorem roundShift_close (n : Nat) (y : Int) :
    -(2 : Int) ^ n < 2 * (roundShift n y * 2 ^ n - y) ∧ 2 * (roundShift n y * 2 ^ n - y) ≤ 2 ^ n := by
  cases n with
  | zero =>
    rw [roundShift, if_pos rfl, pow_zero]
    omega
  | succ n =>
    have hunit : (0 : Int) < 2 ^ n := by positivity
    rw [roundShift, if_neg (Nat.succ_ne_zero n), Nat.add_sub_cancel, pow_succ]
    have hdiv := Int.mul_ediv_add_emod (y + 2 ^ n) (2 ^ n * 2)
    have hlow := Int.emod_nonneg (y + 2 ^ n) (b := 2 ^ n * 2) (by omega)
    have hhigh := Int.emod_lt_of_pos (y + 2 ^ n) (b := 2 ^ n * 2) (by omega)
    rw [mul_comm] at hdiv
    omega

/-- A value within a multiple of the unit stays within it when it is shifted. -/
theorem roundShift_within {n top : Nat} {y : Int} (h : y.natAbs ≤ top * 2 ^ n) :
    -(top : Int) ≤ roundShift n y ∧ roundShift n y ≤ top := by
  obtain ⟨hlow, hhigh⟩ := roundShift_close n y
  have hunit : (0 : Int) < 2 ^ n := by positivity
  have hy : |y| ≤ (top : Int) * 2 ^ n := by
    rw [Int.abs_eq_natAbs]
    exact_mod_cast h
  obtain ⟨hylow, hyhigh⟩ := abs_le.mp hy
  generalize (2 : Int) ^ n = u at *
  constructor
  · by_contra hless
    nlinarith
  · by_contra hmore
    nlinarith

theorem encodeSample_eq (w : Width) (n : Nat) (y : Int) :
    encodeSample w n y = max (-(w.top : Int) - 1) (min w.top (roundShift n y)) :=
  clampInt_eq (by omega) _

/-- A sample that fits is not changed by saturation. -/
theorem encodeSample_of_fits {w : Width} {n : Nat} {y : Int} (h : y.natAbs ≤ w.top * 2 ^ n) :
    encodeSample w n y = roundShift n y := by
  obtain ⟨hlow, hhigh⟩ := roundShift_within h
  rw [encodeSample_eq]
  omega

/-- Settles O48: the shift from its search, the samples from the rounding. -/
theorem encodedSamplesDecodeClosely : Obligations.EncodedSamplesDecodeClosely := by
  rintro w g n rfl
  obtain ⟨hmax, hfirst, hfits⟩ := shiftFor_spec w g.peak
  refine ⟨hmax, fun hpos => hfirst _ (by omega), fun hgreat => ?_, fun y _ => ?_, fun hpeak => ?_⟩
  · by_contra hne
    have hbelow : shiftFor w g.peak < w.maxShift := by omega
    have := w.top_pow_le hmax
    have := hfits hbelow
    omega
  · rw [encodeSample_eq]
    omega
  · have hfit := shiftFor_fits hpeak
    have hsame {y : RawEntry} (hy : y ∈ g.samples) : y.value.natAbs ≤ w.top * 2 ^ shiftFor w g.peak :=
      (g.natAbs_le_peak hy).trans hfit
    refine ⟨hfit, ?_, fun y hy => ?_⟩
    · simp only [Segment.saturates, List.any_eq_false, decide_eq_true_eq, not_not]
      exact fun y hy => encodeSample_of_fits (hsame hy)
    · rw [encodeSample_of_fits (hsame hy)]
      exact ⟨(roundShift_within (hsame hy)).1, roundShift_close _ _⟩

/-! ### The cut of a window -/

section
variable {ring : Memory RawEntry} {newest pre post : Nat} {c : JobChannel}

theorem cutWindow_gone (h : c.arrival + post ≤ newest - 4095) (hpost : 1 ≤ post) :
    cutWindow ring (some newest) pre post c = .gone := by
  have hrange : (c.arrival : Int) + post - 1 < (newest - (Config.rawRingLength - 1) : Nat) := by
    simp only [Config.rawRingLength]
    omega
  simp only [cutWindow, if_pos hrange]

theorem cutWindow_notReached (h : newest - 4095 < c.arrival + post) (hlate : newest + pre < c.arrival) :
    cutWindow ring (some newest) pre post c = .notReached := by
  have hrange : ¬ (c.arrival : Int) + post - 1 < (newest - (Config.rawRingLength - 1) : Nat) := by
    simp only [Config.rawRingLength]
    omega
  have hstart : (newest : Int) < (c.arrival : Int) - pre := by omega
  simp only [cutWindow, if_neg hrange, if_pos hstart]

/-- The epochs that the window and the ring share. -/
theorem cutWindow_segment (h : newest - 4095 < c.arrival + post) (hreached : c.arrival ≤ newest + pre)
    {first last : Int} (hfirst : first = max ((c.arrival : Int) - pre) (newest - 4095 : Nat))
    (hlast : last = min ((c.arrival : Int) + post - 1) newest) :
    cutWindow ring (some newest) pre post c = .segment
      { channel := c.channel
        delay := c.delay
        arrival := c.arrival
        offset := first - c.arrival
        samples := ringSamples ring first.toNat (last - first + 1).toNat
        headClip := decide ((c.arrival : Int) - pre < (newest - 4095 : Nat))
        tailClip := decide ((newest : Int) < (c.arrival : Int) + post - 1) } := by
  have hrange : ¬ (c.arrival : Int) + post - 1 < (newest - (Config.rawRingLength - 1) : Nat) := by
    simp only [Config.rawRingLength]
    omega
  have hstart : ¬ (newest : Int) < (c.arrival : Int) - pre := by omega
  simp only [cutWindow, if_neg hrange, if_neg hstart, hfirst, hlast]
  rfl

theorem ringSamples_length (ring : Memory RawEntry) (first n : Nat) : (ringSamples ring first n).length = n := by
  rw [ringSamples, List.length_map, List.length_range]

theorem ringSamples_getElem? (ring : Memory RawEntry) (first : Nat) {n i : Nat} (h : i < n) :
    (ringSamples ring first n)[i]? = some (Memory.read .cleared ring ((first + i) % 4096)) := by
  rw [ringSamples, List.getElem?_map, List.getElem?_range h]
  rfl

end

/-! ### The order of the segments -/

theorem Segment.before_iff (a b : Segment) :
    a.before b = true ↔ a.arrival < b.arrival ∨ a.arrival = b.arrival ∧ a.channel ≤ b.channel := by
  simp [Segment.before]

theorem mem_insertSegment {g x : Segment} {gs : List Segment} (h : x ∈ insertSegment g gs) : x = g ∨ x ∈ gs :=
  List.mem_cons.mp ((insertSegment_perm g gs).subset h)

/-- An insertion keeps the order. -/
theorem insertSegment_ordered (g : Segment) {gs : List Segment} (h : gs.Pairwise fun a b => a.before b) :
    (insertSegment g gs).Pairwise fun a b => a.before b := by
  induction gs with
  | nil => exact List.pairwise_singleton _ _
  | cons a gs ih =>
    obtain ⟨hhead, htail⟩ := List.pairwise_cons.mp h
    unfold insertSegment
    split
    next hbefore =>
      refine List.pairwise_cons.mpr ⟨fun x hx => ?_, h⟩
      rcases List.mem_cons.mp hx with rfl | hx
      · exact hbefore
      · have hnext := hhead x hx
        rw [Segment.before_iff] at hbefore hnext ⊢
        omega
    next hnot =>
      refine List.pairwise_cons.mpr ⟨fun x hx => ?_, ih htail⟩
      rcases mem_insertSegment hx with rfl | hx
      · rw [Segment.before_iff] at hnot ⊢
        omega
      · exact hhead x hx

theorem orderSegments_ordered (gs : List Segment) : (orderSegments gs).Pairwise fun a b => a.before b := by
  induction gs with
  | nil => exact .nil
  | cons g gs ih => exact insertSegment_ordered g ih

/-- Settles O49: the three outcomes of a cut, and the order. -/
theorem segmentsAreCutAndOrdered : Obligations.SegmentsAreCutAndOrdered := by
  refine ⟨fun ring newest pre post low c hpost hlow => ⟨rfl, fun hgone => ?_, fun hheld hlate => ?_,
    fun hheld hreached => ?_⟩, fun gs => ⟨orderSegments_perm gs, ?_⟩⟩
  · exact cutWindow_gone (hlow ▸ hgone) hpost
  · exact cutWindow_notReached (hlow ▸ hheld) hlate
  · obtain ⟨first, hfirst⟩ : ∃ n : Int, n = max ((c.arrival : Int) - pre) (newest - 4095 : Nat) := ⟨_, rfl⟩
    obtain ⟨last, hlast⟩ : ∃ n : Int, n = min ((c.arrival : Int) + post - 1) newest := ⟨_, rfl⟩
    have hlength := ringSamples_length ring first.toNat (last - first + 1).toNat
    refine ⟨_, cutWindow_segment (hlow ▸ hheld) hreached hfirst hlast, rfl, rfl, rfl, ?_, ?_, ?_, fun i hi => ?_,
      ?_, ?_⟩
    · dsimp only
      omega
    · dsimp only
      omega
    · dsimp only
      omega
    · dsimp only at hi ⊢
      rw [ringSamples_getElem? _ _ (hlength ▸ hi)]
      have hplace : first.toNat + i = ((c.arrival : Int) + (first - c.arrival) + i).toNat := by omega
      rw [hplace]
    · rw [decide_eq_true_iff]
      omega
    · rw [decide_eq_true_iff]
      omega
  · exact (orderSegments_ordered gs).imp fun h => (Segment.before_iff _ _).mp h

end Sys2Proof.Machine

/-! PROOFS. The control port: the receiver byte by byte (R169 to R173) and the bytes of a whole frame, the backlog, BUSY
and the waiting frames (R174, R175), and the transmit queue (R177). -/

namespace Sys2Proof.Machine

/-! ### The receiver -/

theorem State.receive_receive (s : State) (r q : Receiver) : (s.receive r).receive q = s.receive q := rfl

theorem State.receive_hunting {s : State} (h : s.cpt.receiver = .hunting) : s.receive .hunting = s := by
  rw [State.receive, ← h]

section
variable {s : State} {b : Byte}

theorem State.goodByte_inFrame {f : FrameInProgress} (h : s.cpt.receiver = .inFrame f) :
    s.goodByte b = s.takeFrameByte f b := by
  simp only [State.goodByte, h]

theorem State.goodByte_hunting (h : s.cpt.receiver = .hunting) : s.goodByte b
    = if b = 0xD3 then s.receive (.inFrame .start)
      else s.count fun c => { c with huntDiscards := satInc Config.max32 c.huntDiscards } := by
  simp only [State.goodByte, h]
  rfl

section
variable {f : FrameInProgress}

theorem State.takeFrameByte_kind (h : f.position = 1) : s.takeFrameByte f b
    = s.receive (.inFrame { f with position := 2, gap := 0, kind := b, check := checkByte f.check b }) := by
  simp only [State.takeFrameByte, h, if_true]

theorem State.takeFrameByte_tag (h : f.position = 2) : s.takeFrameByte f b
    = s.receive (.inFrame { f with position := 3, gap := 0, tag := b, check := checkByte f.check b }) := by
  simp [State.takeFrameByte, h]

theorem State.takeFrameByte_lengthLow (h : f.position = 3) : s.takeFrameByte f b
    = s.receive (.inFrame { f with position := 4, gap := 0, length := b.toNat, check := checkByte f.check b }) := by
  simp [State.takeFrameByte, h]

theorem State.takeFrameByte_lengthHigh (h : f.position = 4) (hfits : f.length + 256 * b.toNat ≤ 1152) :
    s.takeFrameByte f b = s.receive (.inFrame { f with
      position := 5, gap := 0, length := f.length + 256 * b.toNat, check := checkByte f.check b }) := by
  have hmax : ¬ 1152 < f.length + 256 * b.toNat := Nat.not_lt.mpr hfits
  simp [State.takeFrameByte, h, Config.maxBody, hmax]

theorem State.takeFrameByte_tooLong (h : f.position = 4) (hlong : 1152 < f.length + 256 * b.toNat) :
    s.takeFrameByte f b
      = (s.receive .hunting).count fun c => { c with lengthDrops := satInc Config.max32 c.lengthDrops } := by
  simp [State.takeFrameByte, h, Config.maxBody, hlong]

theorem State.takeFrameByte_body (hlow : 5 ≤ f.position) (hhigh : f.position < 5 + f.length) : s.takeFrameByte f b
    = s.receive (.inFrame { f with
      position := f.position + 1, gap := 0, body := f.body ++ [b], check := checkByte f.check b }) := by
  simp only [State.takeFrameByte]
  rw [if_neg (by omega), if_neg (by omega), if_neg (by omega), if_neg (by omega), if_pos hhigh]

theorem State.takeFrameByte_checkLow (h : f.position = 5 + f.length) : s.takeFrameByte f b
    = s.receive (.inFrame { f with position := f.position + 1, gap := 0, checkLow := b }) := by
  simp only [State.takeFrameByte]
  rw [if_neg (by omega), if_neg (by omega), if_neg (by omega), if_neg (by omega), if_neg (by omega), if_pos h]

theorem State.takeFrameByte_checkHigh (h : f.position = f.length + 6) :
    s.takeFrameByte f b = s.completeFrame f b := by
  simp only [State.takeFrameByte]
  rw [if_neg (by omega), if_neg (by omega), if_neg (by omega), if_neg (by omega), if_neg (by omega), if_neg (by omega)]

end
end

/-- A complete frame by its check (R173). -/
theorem State.completeFrame_eq (s : State) (f : FrameInProgress) (b : Byte) : s.completeFrame f b
    = if f.check.toNat = f.checkLow.toNat + 256 * b.toNat then
        (s.receive .hunting).acceptFrame { kind := f.kind, tag := f.tag, body := f.body }
      else (s.receive .hunting).count fun c => { c with checkDrops := satInc Config.max32 c.checkDrops } := by
  simp only [State.completeFrame, leValue, Nat.mul_zero, Nat.add_zero]
  rfl

/-! ### The bytes of a frame -/

theorem State.receives_append (bs cs : List Byte) : ∀ {s u : State}, State.receives bs s = .next u →
    State.receives (bs ++ cs) s = State.receives cs u := by
  induction bs with
  | nil =>
    intro s u h
    cases h
    rfl
  | cons b bs ih => exact fun h => ih h

/-- A good byte of a frame, and those behind it. -/
theorem State.receives_inFrame (s : State) (f : FrameInProgress) (b : Byte) (bs : List Byte) :
    State.receives (b :: bs) (s.receive (.inFrame f))
      = State.receives bs ((s.receive (.inFrame f)).takeFrameByte f b) := by
  rw [← State.goodByte_inFrame (s := s.receive (.inFrame f)) rfl]
  rfl

/-- The frame in progress behind its five head bytes. -/
def FrameInProgress.afterHead (kind tag : Byte) (n : Nat) : FrameInProgress :=
  { position := 5, kind := kind, tag := tag, length := n, body := [], check := checkOf (kind :: tag :: le 2 n),
    checkLow := 0, gap := 0 }

theorem State.receives_head {s : State} (h : s.cpt.receiver = .hunting) (kind tag : Byte) {n : Nat} (hn : n ≤ 1152) :
    State.receives (0xD3 :: kind :: tag :: le 2 n) s = .next (s.receive (.inFrame (.afterHead kind tag n))) := by
  have hmarker (bs : List Byte) :
      State.receives (0xD3 :: bs) s = State.receives bs (s.receive (.inFrame .start)) := by
    have hgood : s.goodByte 0xD3 = s.receive (.inFrame .start) := (State.goodByte_hunting h).trans (if_pos rfl)
    rw [← hgood]
    rfl
  have hlow : (BitVec.ofNat 8 n).toNat = n % 256 := BitVec.toNat_ofNat n 8
  have hhigh : (BitVec.ofNat 8 (n / 256)).toNat = n / 256 :=
    (BitVec.toNat_ofNat _ 8).trans (Nat.mod_eq_of_lt (by omega))
  have hsum : n % 256 + 256 * (n / 256) = n := Nat.mod_add_div n 256
  have hhead : checkOf (kind :: tag :: le 2 n) = checkByte (checkByte (checkByte (checkByte 0xFFFF kind) tag)
      (BitVec.ofNat 8 n)) (BitVec.ofNat 8 (n / 256)) := rfl
  rw [hmarker, State.receives_inFrame, State.takeFrameByte_kind rfl, State.receive_receive,
    State.receives_inFrame, State.takeFrameByte_tag rfl, State.receive_receive, le,
    State.receives_inFrame, State.takeFrameByte_lengthLow rfl, State.receive_receive, le,
    State.receives_inFrame, State.takeFrameByte_lengthHigh rfl (by rw [hlow, hhigh, hsum]; exact hn),
    State.receive_receive, FrameInProgress.afterHead, hhead]
  simp only [hlow, hhigh, hsum]
  rfl

/-- The body bytes of a frame, from any of its places on. -/
theorem State.receives_body (s : State) (rest : List Byte) : ∀ f : FrameInProgress,
    f.position = 5 + f.body.length → f.body.length + rest.length ≤ f.length → f.gap = 0 →
    State.receives rest (s.receive (.inFrame f)) = .next (s.receive (.inFrame { f with
      position := f.position + rest.length, body := f.body ++ rest, check := rest.foldl checkByte f.check })) := by
  induction rest with
  | nil =>
    intro f _ _ _
    rw [List.append_nil]
    rfl
  | cons b rest ih =>
    intro f hposition hroom hgap
    rw [List.length_cons] at hroom
    rw [State.receives_inFrame, State.takeFrameByte_body (by omega) (by omega), State.receive_receive,
      ih _ (by simp only [List.length_append, List.length_singleton]; omega)
        (by simp only [List.length_append, List.length_singleton]; omega) rfl]
    simp only [List.append_assoc, List.singleton_append, List.length_cons, List.foldl_cons, hgap,
      Nat.add_comm rest.length 1, Nat.add_assoc]

/-- The two check bytes of a frame that matches them. -/
theorem State.receives_check (s : State) {f : FrameInProgress} (hposition : f.position = 5 + f.length) :
    State.receives (le 2 f.check.toNat) (s.receive (.inFrame f))
      = .next ((s.receive .hunting).acceptFrame { kind := f.kind, tag := f.tag, body := f.body }) := by
  have hmatch : f.check.toNat
      = (BitVec.ofNat 8 f.check.toNat).toNat + 256 * (BitVec.ofNat 8 (f.check.toNat / 256)).toNat := by
    have := f.check.isLt
    rw [BitVec.toNat_ofNat, BitVec.toNat_ofNat]
    omega
  rw [le, State.receives_inFrame, State.takeFrameByte_checkLow hposition, State.receive_receive, le,
    State.receives_inFrame, State.takeFrameByte_checkHigh (by dsimp only; omega), State.completeFrame_eq,
    if_pos hmatch, State.receive_receive]
  rfl

/-- A body that a frame can carry reaches the port. -/
theorem State.hostSends_eq {body : List Byte} (h : body.length ≤ 1152) (s : State) (kind tag : Byte) :
    s.hostSends kind tag body = s.acceptFrame { kind := kind, tag := tag, body := body } :=
  if_neg (Nat.not_lt.mpr h)

/-- Settles O52: marker and head, body, check. -/
theorem frameBytesReachThePort : Obligations.FrameBytesReachThePort := by
  intro s kind tag body hhunting hlength
  have hsplit : frameBytes kind tag body = (0xD3 :: kind :: tag :: le 2 body.length)
      ++ (body ++ le 2 (body.foldl checkByte (checkOf (kind :: tag :: le 2 body.length))).toNat) := by
    simp only [frameBytes, checkOf, List.cons_append, List.append_assoc, List.foldl_cons, List.foldl_append]
  rw [hsplit, State.receives_append _ _ (State.receives_head hhunting kind tag hlength),
    State.receives_append _ _ (State.receives_body s body (.afterHead kind tag body.length) rfl (by
      simp [FrameInProgress.afterHead]) rfl)]
  refine (State.receives_check s (by rfl)).trans ?_
  rw [State.receive_hunting hhunting, State.hostSends_eq hlength]
  rfl

/-- Settles O53: one case for each judgement of a byte, and the gap. -/
theorem receiverJudgesBytesAndGaps : Obligations.ReceiverJudgesBytesAndGaps := by
  intro s b dropped hdropped
  have hnext (u : State) (h : s.goodByte b = u) : exec (.rxByte b true) s = .next u :=
    congrArg Host.Outcome.next h
  have hdrop (k : LinkCounters → LinkCounters) : (s.receive .hunting).count k = dropped (k s.cpt.counters) :=
    (hdropped _).symm
  refine ⟨?_, fun hhunting hb => hnext _ ?_, fun f hhunting hb hf => hnext _ ?_,
    fun f hframe hposition hlong => hnext _ ?_, fun f hframe hposition hcheck => hnext _ ?_,
    fun f hframe hposition hcheck => hnext _ ?_, fun n f hframe hcomes => ⟨fun hgap => ?_, ?_⟩⟩
  · have hline : s.lineError = dropped _ := hdrop _
    rw [satInc_eq_min] at hline
    exact congrArg Host.Outcome.next hline
  · rw [State.goodByte_hunting hhunting, if_neg hb, ← State.receive_hunting hhunting, hdrop, satInc_eq_min]
    rfl
  · rw [State.goodByte_hunting hhunting, if_pos hb, hf]
    rfl
  · rw [State.goodByte_inFrame hframe, State.takeFrameByte_tooLong hposition hlong, hdrop, satInc_eq_min]
  · rw [State.goodByte_inFrame hframe, State.takeFrameByte_checkHigh hposition, State.completeFrame_eq,
      if_neg hcheck, hdrop, satInc_eq_min]
  · rw [State.goodByte_inFrame hframe, State.takeFrameByte_checkHigh hposition, State.completeFrame_eq,
      if_pos hcheck, hdropped]
    rfl
  · obtain ⟨hdue, -⟩ := hcomes
    simp only [State.dueIn, hframe, Option.some.injEq] at hdue
    rw [← hdue]
    exact Nat.add_sub_cancel' hgap
  · refine congrArg Host.Outcome.next ((State.comeAbout_of_comesIn hcomes State.gapExpires).trans ?_)
    simp only [State.gapExpires, State.receive, State.count, State.elapse_cpt, ControlPort.elapse_inFrame hframe,
      satInc_eq_min]

/-! ### The waiting frames -/

theorem State.runWaiting_of_blocked {s : State}
    (h : s.cpt.executing ≠ none ∨ s.cpt.resetPending = true ∨ s.cpt.waiting = []) : s.runWaiting = s := by
  cases hwaiting : s.cpt.waiting with
  | nil => exact State.runWaiting_of_none hwaiting
  | cons f rest =>
    have hblocked : (s.cpt.executing.isSome || s.cpt.resetPending) = true := by
      rw [Bool.or_eq_true, Option.isSome_iff_ne_none]
      rw [hwaiting] at h
      exact h.imp_right fun h => h.resolve_right nofun
    rw [State.runWaiting, hwaiting, List.length_cons, State.runBacklog, if_pos hblocked]

/-- The oldest waiting frame is executed, then those that wait still. -/
theorem State.runWaiting_cons {s : State} {f : Frame} {rest : List Frame} (hfree : s.cpt.executing = none)
    (hreset : s.cpt.resetPending = false) (hwaiting : s.cpt.waiting = f :: rest) :
    s.runWaiting = (State.executeFrame { s with cpt := { s.cpt with waiting := rest } } f).runWaiting := by
  have hopen : ¬ (s.cpt.executing.isSome || s.cpt.resetPending) = true := by simp [hfree, hreset]
  have hrest : (State.executeFrame { s with cpt := { s.cpt with waiting := rest } } f).cpt.waiting = rest := by
    obtain ⟨b, -, hcpt, -⟩ := State.executeFrame_port { s with cpt := { s.cpt with waiting := rest } } f
    rcases hcpt with ⟨-, r, hcpt⟩ | ⟨x, hcpt⟩
    · rw [hcpt]
    · rw [hcpt]
  rw [State.runWaiting, hwaiting, List.length_cons, State.runBacklog, if_neg hopen, State.runWaiting, hrest]
  simp only [hwaiting]

/-! ### Valid frames -/

section
variable {s : State} {f : Frame}

theorem State.acceptFrame_replyKind (h : 128 ≤ f.kind.toNat) :
    s.acceptFrame f = s.count fun c => { c with kindDrops := satInc Config.max32 c.kindDrops } :=
  if_pos h

theorem State.acceptFrame_room (h : f.kind.toNat < 128) (hroom : s.cpt.backlog < 3) : s.acceptFrame f
    = State.runWaiting (s.counted.withCpt { s.counted.cpt with waiting := s.cpt.waiting ++ [f] }) := by
  rw [State.acceptFrame, if_neg (by omega)]
  exact if_pos hroom

theorem State.acceptFrame_busy (h : f.kind.toNat < 128) (hfull : 3 ≤ s.cpt.backlog) :
    s.acceptFrame f = s.counted.refuseBusy f := by
  rw [State.acceptFrame, if_neg (by omega)]
  exact if_neg (Nat.not_lt.mpr hfull)

end

/-! ### What is left of an epoch event -/

theorem State.completeTick_stage (s : State) : s.completeTick.ccu.stage ≠ .completion := by
  have hstage : s.ccu.completeTick.stage = .none := by simp [Conditioner.completeTick]
  unfold State.completeTick
  generalize s.ccu.completeTick = c at hstage
  dsimp only
  split
  · rw [hstage]
    nofun
  · dsimp only
    split <;> nofun
  · rw [State.appendOrigin, hstage]
    nofun

theorem State.withCpt_completeTick (s : State) (c : ControlPort) :
    (s.withCpt c).completeTick = s.completeTick.withCpt c := by
  unfold State.completeTick
  rw [State.withCpt_ccu]
  generalize s.ccu.completeTick = d
  dsimp only
  cases hmode : s.mdc.mode with
  | standby => simp only [State.withCpt, hmode]
  | listening => simp only [State.withCpt, hmode, State.appendOrigin]
  | priming =>
    simp only [State.withCpt, hmode]
    rfl

theorem State.withCpt_endPriming (s : State) (c : ControlPort) :
    (s.withCpt c).endPriming = s.endPriming.withCpt c := rfl

/-- A tick completed is the first part of what is left of its epoch event. -/
theorem State.settleEpoch_completeTick {s : State} (h : s.ccu.stage = .completion) :
    s.completeTick.settleEpoch = s.settleEpoch := by
  simp only [State.settleEpoch, h, if_true, if_neg s.completeTick_stage]

theorem State.settleEpoch_endPriming {s : State} (h : s.ccu.stage = .primingEnd) :
    s.endPriming.settleEpoch = s.settleEpoch := by
  have hbefore : s.settleEpoch = s.endPriming := by simp [State.settleEpoch, h]
  rw [hbefore]
  exact State.settleEpoch_of_none rfl

theorem State.counted_eq (s : State) : s.counted = s.withCpt s.counted.cpt := rfl

/-- A frame at a free port is executed on what is left of the epoch event, whoever takes it. -/
theorem State.hostSends_free {s : State} (hfree : s.cpt.executing = none) (hwaiting : s.cpt.waiting = [])
    (hreset : s.cpt.resetPending = false) {kind : Byte} (hkind : kind.toNat < 128) (tag : Byte) {body : List Byte}
    (hbody : body.length ≤ 1152) :
    s.hostSends kind tag body = s.counted.executeFrame { kind := kind, tag := tag, body := body } := by
  have hempty : s.cpt.backlog < 3 := by simp [ControlPort.backlog, hfree, hwaiting]
  rw [State.hostSends_eq hbody, State.acceptFrame_room hkind hempty]
  exact runWaiting_one (u := s.counted) hfree hwaiting hreset

/-! ### The reply that is sent -/

section
variable {s : State} {r : Reply} {rest : List Reply}

theorem State.replySent_eq (hqueue : s.cpt.transmit = r :: rest)
    (h : s.cpt.resetPending = false ∨ r.kind ≠ 0x82 ∨ r.body ≠ [0x00]) : s.replySent
    = match s.cpt.executing with
      | some (.replyWaiting w) => State.runWaiting (s.withCpt { s.cpt with
          transmit := rest ++ [w], sentFor := 0, executing := none })
      | some (.tableRead _) => s.withCpt { s.cpt with transmit := rest, sentFor := 0 }
      | none => State.runWaiting (s.withCpt { s.cpt with transmit := rest, sentFor := 0 }) := by
  have hgoes : ¬ (s.cpt.resetPending && r.endsReset) = true := by
    simp only [Reply.endsReset, statusOk, Bool.and_eq_true, beq_iff_eq, not_and]
    intro hpending hkind hbody
    rcases h with h | h | h
    · exact absurd (hpending.symm.trans h) nofun
    · exact h hkind
    · exact h hbody
  simp only [State.replySent, hqueue, if_neg hgoes]
  rfl

end

/-! ### TXD -/

theorem Reply.lineBits_eq (r : Reply) : r.lineBits
    = r.bytes.flatMap fun b => [false, b.getLsbD 0, b.getLsbD 1, b.getLsbD 2, b.getLsbD 3,
        b.getLsbD 4, b.getLsbD 5, b.getLsbD 6, b.getLsbD 7, true] := rfl

/-- Settles O54: TXD, the four ways of a frame, the reply sent, the waiting frames, and the epoch event. -/
theorem framesWaitTheirTurn : Obligations.FramesWaitTheirTurn := by
  intro s
  refine ⟨ControlPort.txd_idle, fun r rest hqueue => ?_, fun kind tag body hbody => ⟨fun hkind => ?_,
    fun hkind hroom hblocked => ?_, fun hkind hfull hplace => ?_, fun hkind hfull hnone => ?_⟩,
    fun r rest hqueue hgoes => ?_, State.runWaiting_of_blocked, fun f rest => State.runWaiting_cons,
    fun kind tag body u hkind hbody hfree hwaiting hreset hround hleft => ?_⟩
  · obtain ⟨hlow, hhigh⟩ := s.cpt.bitPlace_bounds
    refine ⟨s.cpt.bitPlace, hlow, hhigh, ?_⟩
    rw [← Reply.lineBits_eq, ControlPort.txd_sending hqueue]
  · rw [State.hostSends_eq hbody, State.acceptFrame_replyKind hkind]
    simp only [satInc_eq_min]
  · rw [State.hostSends_eq hbody, State.acceptFrame_room hkind hroom]
    exact State.runWaiting_of_blocked (hblocked.imp_right .inl)
  · rw [State.hostSends_eq hbody, State.acceptFrame_busy hkind hfull]
    refine (if_pos hplace).trans ?_
    simp only [State.counted, State.count, satInc_eq_min]
    rfl
  · rw [State.hostSends_eq hbody, State.acceptFrame_busy hkind hfull]
    refine (if_neg (Nat.not_lt.mpr hnone)).trans ?_
    simp only [State.counted, State.count, satInc_eq_min]
  · have hsent := State.replySent_eq hqueue hgoes
    refine ⟨fun w hw => ?_, fun tag htag => ?_, fun hnone => ?_⟩
    · rw [hw] at hsent
      exact congrArg Host.Outcome.next hsent
    · rw [htag] at hsent
      exact congrArg Host.Outcome.next hsent
    · rw [hnone] at hsent
      exact congrArg Host.Outcome.next hsent
  · have hsettle (t : State) (ht : t.cpt = s.cpt)
        (hsame : (t.withCpt s.counted.cpt).settleEpoch = (s.withCpt s.counted.cpt).settleEpoch) :
        s.hostSends kind tag body = t.hostSends kind tag body := by
      rw [State.hostSends_free hfree hwaiting hreset hkind tag hbody,
        State.hostSends_free (by rw [ht]; exact hfree) (by rw [ht]; exact hwaiting) (by rw [ht]; exact hreset) hkind tag
          hbody, State.executeFrame, State.executeFrame, s.counted_eq, t.counted_eq]
      have hcpt : t.counted.cpt = s.counted.cpt := by simp only [State.counted, State.count, ht]
      rw [hcpt, hsame]
    rcases hleft with ⟨hstage, htick⟩ | ⟨hstage, hend⟩
    · rw [exec_tickCompletion hstage hround] at htick
      cases htick
      have hport : s.completeTick.cpt = s.cpt := by
        obtain ⟨_, _, _, h⟩ := s.completeTick_eq
        rw [h]
        rfl
      refine hsettle _ hport ?_
      rw [← State.withCpt_completeTick]
      exact State.settleEpoch_completeTick hstage
    · rw [exec_primingEnd hstage hround] at hend
      cases hend
      refine hsettle _ rfl ?_
      rw [← State.withCpt_endPriming]
      exact State.settleEpoch_endPriming hstage

end Sys2Proof.Machine

/-! PROOFS. STATUS and RESET (R180, R181) with the sizes of the snapshots and records (R191 to R193), and the soft reset
block by block (R165, R182). -/

namespace Sys2Proof.Machine

/-! ### Sizes -/

theorem Region.statusBytes_length (r : Region) : r.statusBytes.length = 13 := by
  unfold Region.statusBytes
  dsimp only
  split <;> simp

theorem State.statusHeadJob_length (s : State) : s.statusHeadJob.length = 12 := by
  unfold State.statusHeadJob
  split <;> simp

theorem State.statusBuilder_length (s : State) : s.statusBuilder.length = 218 := by
  have hregions : ((List.finRange 16).flatMap fun r => s.evb.regions[r].statusBytes).length = 13 * 16 := by
    rw [length_flatMap_const _ fun r => Region.statusBytes_length s.evb.regions[r], List.length_finRange]
  simp only [State.statusBuilder, List.length_append, hregions, le_length]

/-- The groups of R191 add up to 452 bytes. -/
theorem State.statusSnapshot_length (s : State) : s.statusSnapshot.length = 452 := by
  have hmode : s.statusMode.length = 9 := by simp [State.statusMode]
  have hchannels : s.statusChannels.length = 48 := by simp [State.statusChannels]
  have htimebase : s.statusTimebase.length = 43 := by simp [State.statusTimebase]
  have hstore : s.statusStore.length = 15 := by simp [State.statusStore, Pointer.bytes]
  have hengine : s.statusEngine.length = 32 := by simp [State.statusEngine, Engine.tapBytes]
  have hexcerpts : s.statusExcerpts.length = 40 := by
    simp only [State.statusExcerpts, List.length_append, State.statusHeadJob_length, le_length, List.length_singleton]
  have hreports : s.statusReports.length = 8 := by simp [State.statusReports]
  have hport : s.statusPort.length = 39 := by simp [State.statusPort, LinkCounters.bytes]
  simp only [State.statusSnapshot, List.length_append, hmode, hchannels, htimebase, hstore, hengine,
    State.statusBuilder_length, hexcerpts, hreports, hport]

theorem State.channelSnapshot_length (s : State) (k : Fin 48) : (s.channelSnapshot k).length = 58 := by
  simp [State.channelSnapshot, ChannelRecord.bytes]

theorem EventSummary.bytes_length (e : EventSummary) : e.bytes.length = 95 := by
  simp [EventSummary.bytes]

theorem MonitorRecord.bytes_length {m : MonitorRecord} (h : m.block.values.length = 32) : m.bytes.length = 91 := by
  have hvalue (v : TapValue) : v.bytes.length = 2 := rfl
  have hvalues : (m.block.values.flatMap TapValue.bytes).length = 2 * 32 := by
    rw [length_flatMap_const m.block.values hvalue, h]
  simp only [MonitorRecord.bytes, List.length_append, hvalues, le_length, Label.bytes_length, List.length_cons,
    List.length_nil]

/-- Settles O56: the two requests and the sizes. -/
theorem statusAndResetReply : Obligations.StatusAndResetReply := by
  refine ⟨fun s tag hready => ⟨?_, ?_⟩, fun s => ⟨s.statusSnapshot_length, s.channelSnapshot_length⟩,
    EventSummary.bytes_length, fun m => MonitorRecord.bytes_length⟩
  · exact exec_request_replied (t := s.counted) hready .status tag rfl rfl rfl rfl rfl
  · exact exec_request (t := { s.counted with cpt := { s.counted.cpt with resetPending := true } }) hready .reset tag
      rfl rfl rfl rfl rfl

/-! ### The runtime state of a run cleared -/

section
variable (c : Conditioner)

theorem Conditioner.clearRun_channel (f : Channel → Channel) (k : Fin 48) :
    (c.clearRun f).channels[k] = f c.channels[k] :=
  Conditioner.eachChannel_channel c (fun _ ch => f ch) k

/-- What clearing a run leaves of the conditioner: its settings (R38). -/
theorem Conditioner.clearRun_eq (f : Channel → Channel) : c.clearRun f = { c with
    channels := (c.clearRun f).channels, openEpoch := none, newestEpoch := none, tickCount := 0,
    tickLabel := { seconds := 0, index := 0, quality := .free, step := false }, labelRing := [], stage := .none } := by
  unfold Conditioner.clearRun Conditioner.eachChannel
  generalize (Vector.ofFn fun k => f c.channels[k]) = v
  rfl

theorem Builder.clearSlots_region (b : Builder) (r : Fin 16) : b.clearSlots.regions[r]
    = { b.regions[r] with slot := .idle, inForce := b.regions[r].record.enabled } :=
  Vector.getElem_ofFn r.isLt

end

/-! ### The soft reset -/

/-- The end of the reply to RESET (R181). -/
theorem State.replySent_reset {s : State} {r : Reply} {rest : List Reply} (hqueue : s.cpt.transmit = r :: rest)
    (hpending : s.cpt.resetPending = true) (hkind : r.kind = 0x82) (hbody : r.body = [0x00]) :
    s.replySent = s.softReset := by
  have hends : (s.cpt.resetPending && r.endsReset) = true := by
    simp [Reply.endsReset, hpending, hkind, hbody, statusOk]
  simp only [State.replySent, hqueue, if_pos hends]

theorem Timebase.softReset_eq (t : Timebase) : t.softReset = { t with
    counter := 0, state := .free, cRef := 16384000, lockStreak := 0, missed := 0, seconds := 0,
    pendingSeconds := none, ppsEdges := 0, rejects := 0, outliers := 0, locks := 0, holdovers := 0,
    label := { t.label with
      quality := if t.position = t.issueAt t.sampleIndex then .free else t.label.quality } } := by
  simp only [Timebase.softReset, Timebase.enter, Timebase.justOpened, beq_iff_eq, Config.nominalSecond]

theorem Reports.softReset_eq (q : Reports) : q.softReset = { q with
    summaries := [], excerpts := [], headOffset := 0, attn := decide (q.threshold = 0) } := by
  simp [Reports.softReset, Reports.judge, Reports.attnLevel]

/-- Settles O55, block by block. -/
theorem softResetKeepsTheConfiguration : Obligations.SoftResetKeepsTheConfiguration := by
  intro s r rest hqueue hpending hkind hbody
  have hreset := State.replySent_reset hqueue hpending hkind hbody
  have htrx : s.softReset.trx = Vector.ofFn fun t : Fin 6 => s.trx[t].softReset := by simp only [State.softReset]
  have hccu : s.softReset.ccu = s.ccu.clearRun Channel.softReset := by
    simp only [State.softReset, Conditioner.softReset]
  have hevb : s.softReset.evb = s.evb.softReset := by simp only [State.softReset]
  have htbu : s.softReset.tbu = s.tbu.softReset := by simp only [State.softReset]
  have hrpq : s.softReset.rpq = s.rpq.softReset := by simp only [State.softReset]
  refine ⟨s.softReset, congrArg Host.Outcome.next hreset, rfl, rfl, fun i => ?trunk, fun k => ?channel, ?conditioner,
    ?timebase, rfl, rfl, fun g => ?region, rfl, rfl, rfl, rfl, ?reports, rfl⟩
  case trunk =>
    rw [htrx]
    exact Vector.getElem_ofFn i.isLt
  case channel =>
    rw [hccu, Conditioner.clearRun_channel]
    rfl
  case conditioner =>
    rw [hccu]
    exact s.ccu.clearRun_eq Channel.softReset
  case timebase => rw [htbu, Timebase.softReset_eq]
  case region =>
    rw [hevb]
    exact Builder.clearSlots_region s.evb g
  case reports => rw [hrpq, Reports.softReset_eq]

end Sys2Proof.Machine

/-! PROOFS. START (R158, R159, R141) and STOP (R162, R163, R140) over every block, and the round of a swap that a STOP
leaves pending (R82, R167). -/

namespace Sys2Proof.Machine

/-! ### START -/

/-- A take does not see the port. -/
theorem State.withCpt_take (s : State) (c : ControlPort) : (s.withCpt c).take = s.take.withCpt c := by
  have hbuild (j : Job) : (s.withCpt c).build j = s.build j := rfl
  cases hjobs : s.exu.jobs with
  | nil => simp only [State.take, State.withCpt_exu, hjobs]
  | cons j rest =>
    simp only [State.take, State.withCpt_exu, hjobs, hbuild]
    rfl

theorem State.take_counted (s : State) : s.take.counted = s.counted.take := by
  have hcpt : s.take.counted.cpt = s.counted.cpt := by
    simp only [State.counted, State.count, s.take_builds.cpt]
  rw [s.counted_eq, s.take.counted_eq, hcpt, State.withCpt_take]

/-- Each take removes a job. -/
theorem State.take_jobs (s : State) : s.take.exu.jobs = s.exu.jobs.tail := by
  cases hjobs : s.exu.jobs with
  | nil => simp only [State.take, hjobs, List.tail_nil]
  | cons j rest =>
    simp only [State.take, hjobs, ExcerptUnit.afterTake]

theorem State.takeAll_of_not_ready {s : State} (h : s.takeReady = false) (n : Nat) : State.takeAll n s = s := by
  cases n with
  | zero => rfl
  | succ n => exact if_neg (by rw [h]; nofun)

theorem State.takeAll_of_ready {s : State} (h : s.takeReady = true) :
    State.takeAll s.exu.jobs.length s = State.takeAll s.take.exu.jobs.length s.take := by
  have hjobs : s.exu.jobs ≠ [] := fun hnone => by simp [State.takeReady, hnone] at h
  obtain ⟨j, rest, hcons⟩ := List.exists_cons_of_ne_nil hjobs
  rw [s.take_jobs, hcons, List.tail_cons, List.length_cons, State.takeAll, if_pos h]

section
variable {s : State}

theorem State.startRun_mdc (s : State) :
    s.startRun.mdc = { mode := .priming, countdown := primingCount s.ccu.ltaShift } := by
  simp only [State.startRun]

theorem Conditioner.start_settings (c : Conditioner) :
    c.start.dec = 2 ^ c.decimation.val ∧ c.start.staShift = c.staShift ∧ c.start.ltaShift = c.ltaShift := by
  rw [Conditioner.start, Conditioner.clearRun_eq]
  exact ⟨rfl, rfl, rfl⟩

theorem applyStart_refused (h : s.tts.activeBank.count = 0) (body : List Byte) :
    applyStart body s = (s, [statusWrongMode]) :=
  if_pos h

/-- START's own work, the takes of its instant made first (R141). -/
theorem applyStart_accepted (h : s.tts.activeBank.count ≠ 0) (body : List Byte) : applyStart body s
    = ((State.takeAll s.exu.jobs.length s).startRun,
      [0x00] ++ le 2 (max 256 (2 ^ s.ccu.ltaShift)) ++ [s.tts.active.code] ++ le 2 s.tts.activeBank.count
        ++ [byte (2 ^ s.ccu.decimation.val), byte s.ccu.staShift, byte s.ccu.ltaShift]) := by
  obtain ⟨-, -, hccu, -, htts, -, -, -⟩ := State.takeAll_builds s.exu.jobs.length s
  obtain ⟨hdec, hsta, hlta⟩ := s.ccu.start_settings
  simp only [applyStart, if_neg h, State.startRun_mdc, State.startRun_tts, State.startRun_ccu, hccu, htts, hdec, hsta,
    hlta, statusOk, primingCount]

/-- An accepted START at a free port. -/
theorem exec_start (hready : s.ready) (tag : Byte) (hmode : s.mode = .standby) (hcount : s.tts.activeBank.count ≠ 0) :
    exec (.start tag []) s = .next { (State.takeAll s.counted.exu.jobs.length s.counted).startRun with
      cpt := s.cpt.replied 0x40 tag ([0x00] ++ le 2 (max 256 (2 ^ s.ccu.ltaShift)) ++ [s.tts.active.code]
        ++ le 2 s.tts.activeBank.count
        ++ [byte (2 ^ s.ccu.decimation.val), byte s.ccu.staShift, byte s.ccu.ltaShift]) } := by
  have hcpt : (State.takeAll s.counted.exu.jobs.length s.counted).startRun.cpt = s.counted.cpt :=
    (State.startRun_cpt _).trans (State.takeAll_builds _ s.counted).cpt
  exact exec_request_replied hready .start tag rfl (by simpa [Request.modeOk] using hmode) rfl
    (congrArg answered (applyStart_accepted (s := s.counted) hcount [])) hcpt

end

/-! ### STOP -/

/-- A close for STOPPED queues no job (R130). -/
theorem State.declareEvent_stopped_exu (s : State) (r : Fin 16) (k : Candidate) :
    (s.declareEvent r .stopped k).exu = s.exu := by
  have hstatus : (s.summaryFor r .stopped k).status ≠ .queued := by
    simp only [State.summaryFor, ExcerptUnit.statusFor]
    split <;> nofun
  unfold State.declareEvent
  simp only [if_neg hstatus]
  split <;> rfl

theorem State.closeAll_stopped_exu (s : State) : (s.closeAll .stopped).exu = s.exu :=
  State.closeAll_keeps (P := fun u => u.exu = s.exu)
    (fun u r k _ hu => (u.declareEvent_stopped_exu r k).trans hu) rfl

/-- STOP, its closes taken from the present state. -/
theorem State.stopRun_parts (s : State) : s.stopRun = { s.closeAll .stopped with
    mdc := { mode := .standby, countdown := 0 }
    stk := s.stk.clearRun
    ccu := { s.ccu with stage := .none }
    tts := s.tts.stop
    exu := s.exu.forceAll } := by
  obtain ⟨u, hu, hstop⟩ := s.stopRun_eq
  have hclose := (stopChange_blind { mode := .standby, countdown := 0 } s.stk.clearRun .none s.tts.stop).closeAll s
    .stopped
  have hexu := u.closeAll_stopped_exu
  rw [← hu] at hclose
  have hccu := (s.closeAll_builds .stopped).ccu
  have hkept : u.exu = s.exu := by rw [hu]; rfl
  rw [hstop, hexu, hkept, hclose]
  generalize s.closeAll .stopped = v at hccu
  rw [hccu]
  rfl

/-- With no candidate OPEN there is nothing to close. -/
theorem State.closeAll_of_none {s : State} (h : ∀ r : Fin 16, s.evb.regions[r].slot.code ≠ 1) (reason : CloseReason) :
    s.closeAll reason = s := by
  have hstays (r : Fin 16) : s.closeOpen reason r = s := by
    have hslot := h r
    unfold State.closeOpen
    split
    next hopen =>
      rw [hopen] at hslot
      exact absurd rfl hslot
    next => rfl
    next => rfl
  rw [State.closeAll_eq]
  exact List.foldl_fixed' hstays _

/-! ### The obligation -/

/-- Settles O58: START refused, taken after a take, and taken; STOP refused and taken; the round left behind. -/
theorem startAndStopTheRun : Obligations.StartAndStopTheRun := by
  refine ⟨fun s tag idle hready hidle => ⟨fun hrefused => ?_, fun hmode hcount htake => ?_,
    fun hmode hcount hnone => ?_, fun hmode => ?_, fun hmode => ?_⟩,
    fun s hpass horigins hswap hread hcopy hround hclosed => ⟨?_, ?_⟩⟩
  · by_cases hmode : s.mode = .standby
    · have hempty := hrefused.resolve_left (not_not.mpr hmode)
      exact exec_request_replied (t := s.counted) hready .start tag rfl (by simpa [Request.modeOk] using hmode) rfl
        (congrArg answered (applyStart_refused (s := s.counted) hempty [])) rfl
    · exact exec_wrongMode hready .start tag rfl (by simpa [Request.modeOk] using hmode)
  · obtain ⟨-, -, hccu, -, htts, -, hcpt, hmdc⟩ := s.take_builds
    have hready' : s.take.ready := by rw [State.ready, hcpt, hccu]; exact hready
    have hmode' : s.take.mode = .standby := by rw [State.mode, hmdc]; exact hmode
    rw [exec_start hready tag hmode hcount, exec_start hready' tag hmode' (by rw [htts]; exact hcount),
      State.takeAll_of_ready (s := s.counted) htake, s.take_counted, hccu, htts, hcpt]
  · have hexec := exec_start hready tag hmode hcount
    obtain ⟨-, -, -, -, hstage⟩ := hready
    rw [State.takeAll_of_not_ready (s := s.counted) hnone] at hexec
    have hccu : s.counted.startRun.ccu = s.ccu.clearRun Channel.start := State.startRun_ccu _
    have hevb : s.counted.startRun.evb = s.evb.clearSlots := by
      simp only [State.startRun, Builder.start, State.counted_evb]
    refine ⟨_, hexec, ?mode, fun k => ?channel, ?conditioner, ?engine, fun r => ?region, ?_, ?_, ?_, ?excerpts, rfl,
      ?_, ?_, ?_, ?_, ?_⟩
    case mode => simp only [State.startRun, primingCount, State.counted_ccu]
    case channel =>
      rw [hccu, Conditioner.clearRun_channel]
      rfl
    case conditioner =>
      rw [hccu]
      refine (s.ccu.clearRun_eq Channel.start).trans ?_
      rw [← hstage]
    case engine => simp only [State.startRun, State.counted_stk, Engine.clearRun, hidle]
    case region =>
      rw [hevb]
      exact Builder.clearSlots_region s.evb r
    case excerpts => simp only [State.startRun, State.counted_exu, ExcerptUnit.discardAll]
    all_goals simp only [State.startRun, Builder.start, Builder.clearSlots, State.counted_evb, State.counted_pending,
      State.counted_trx, State.counted_tbu, State.counted_tts, State.counted_rpq]
  · exact exec_wrongMode hready .stop tag rfl (by simpa [Request.modeOk] using hmode)
  · have hwork : applyStop [] s.counted = (s.counted.stopRun, [0x00, s.mode.code] ++ le 6 s.ccu.tickCount) := rfl
    obtain ⟨-, -, -, hcpt, -⟩ := s.counted.stopRun_blocks
    have hexec := exec_request_replied hready .stop tag rfl (by simpa [Request.modeOk] using hmode) rfl
      (congrArg answered hwork) hcpt
    rw [State.stopRun_parts, State.counted_closeAll] at hexec
    obtain ⟨-, -, -, -, hstage⟩ := hready
    obtain ⟨hpending, htrx, -, htbu, -, -, -, -⟩ := s.closeAll_builds .stopped
    generalize s.closeAll .stopped = u at *
    refine ⟨_, hexec, rfl, ?_, rfl, rfl, rfl, rfl, ?_, rfl, hpending, htrx, htbu⟩
    · rw [← hstage]
      rfl
    · rw [hidle]
      rfl
  · rw [State.roundDue, State.arbiterIdle_iff.mpr ⟨hpass, horigins, hround⟩]
    simp [TableStore.waits, hswap]
  · have hnext : s.tts.nextRound = s.tts.round := by simp [TableStore.nextRound, hread, hcopy, hround]
    rw [State.startRound_swapped hswap, State.closeAll_of_none hclosed, hnext, State.swapNotice_eq]
    rfl

end Sys2Proof.Machine
